-- ==== Sys2Proof/Word.lean ====
section
/-! DEFINITION. The widths of 00_scope R9: what the spec treats as bits. -/

namespace Sys2Proof

/-- V registers, memory bytes, timers and `nn` are 8 bits (R9). -/
abbrev Byte := BitVec 8

/-- Opcodes, I, pc, stack slots and the keyboard mask are 16 bits (R9). -/
abbrev Word := BitVec 16

/-- `nnn` is 12 bits (R9). -/
abbrev Addr12 := BitVec 12

/-- `x`, `y` and `n` are 4 bits (R9). -/
abbrev Nibble := BitVec 4

/-- A hex key, 0x0 to 0xF (00_scope R7 `KEYS`, 60_exceptions R320). -/
abbrev Key := Fin 16

/-- `b2n` of 00_scope R10, written to a register. -/
def b2n (b : Bool) : Byte := if b then 1#8 else 0#8

/-- Zero-extension of a byte to a word (00_scope R9, 30_encoding R92). -/
def zext16 (b : Byte) : Word := b.setWidth 16

end Sys2Proof
end

