-- ==== Sys2Proof/Syntax.lean ====
section
/-! DEFINITION. The instructions: one constructor per row of spec/opcode_table.json, in the table's order (30_encoding R96). -/

namespace Sys2Proof

/-- The 35 instructions of 30_encoding R96. Register fields are the 4-bit `x` and `y` of R91; the mnemonic of the
table stands in each docstring. -/
inductive Instr where
  /-- 00E0 `CLS` (44_display R260). -/
  | cls
  /-- 00EE `RET` (40_flow R132). -/
  | ret
  /-- 0NNN `SYS nnn` (40_flow R131), every value but 00E0 and 00EE. -/
  | sys (nnn : Addr12)
  /-- 1NNN `JP nnn` (40_flow R133). -/
  | jp (nnn : Addr12)
  /-- 2NNN `CALL nnn` (40_flow R134). -/
  | call (nnn : Addr12)
  /-- 3XNN `SE Vx, nn` (40_flow R135). -/
  | seImm (x : Nibble) (nn : Byte)
  /-- 4XNN `SNE Vx, nn` (40_flow R136). -/
  | sneImm (x : Nibble) (nn : Byte)
  /-- 5XY0 `SE Vx, Vy` (40_flow R137). -/
  | seReg (x y : Nibble)
  /-- 6XNN `LD Vx, nn` (41_alu R161). -/
  | ldImm (x : Nibble) (nn : Byte)
  /-- 7XNN `ADD Vx, nn` (41_alu R162). -/
  | addImm (x : Nibble) (nn : Byte)
  /-- 8XY0 `LD Vx, Vy` (41_alu R163). -/
  | ldReg (x y : Nibble)
  /-- 8XY1 `OR Vx, Vy` (41_alu R164). -/
  | orReg (x y : Nibble)
  /-- 8XY2 `AND Vx, Vy` (41_alu R165). -/
  | andReg (x y : Nibble)
  /-- 8XY3 `XOR Vx, Vy` (41_alu R166). -/
  | xorReg (x y : Nibble)
  /-- 8XY4 `ADD Vx, Vy` (41_alu R167). -/
  | addReg (x y : Nibble)
  /-- 8XY5 `SUB Vx, Vy` (41_alu R168). -/
  | sub (x y : Nibble)
  /-- 8XY6 `SHR Vx {, Vy}` (41_alu R169). -/
  | shr (x y : Nibble)
  /-- 8XY7 `SUBN Vx, Vy` (41_alu R170). -/
  | subn (x y : Nibble)
  /-- 8XYE `SHL Vx {, Vy}` (41_alu R171). -/
  | shl (x y : Nibble)
  /-- 9XY0 `SNE Vx, Vy` (40_flow R138). -/
  | sneReg (x y : Nibble)
  /-- ANNN `LD I, nnn` (42_index_memory R201). -/
  | ldI (nnn : Addr12)
  /-- BNNN `JP V0, nnn` (40_flow R139). -/
  | jpV0 (nnn : Addr12)
  /-- CXNN `RND Vx, nn` (41_alu R172). -/
  | rnd (x : Nibble) (nn : Byte)
  /-- DXYN `DRW Vx, Vy, n` (44_display R261). -/
  | drw (x y n : Nibble)
  /-- EX9E `SKP Vx` (43_timers_keys R230). -/
  | skp (x : Nibble)
  /-- EXA1 `SKNP Vx` (43_timers_keys R231). -/
  | sknp (x : Nibble)
  /-- FX07 `LD Vx, DT` (43_timers_keys R232). -/
  | ldVxDT (x : Nibble)
  /-- FX0A `LD Vx, K` (43_timers_keys R233). -/
  | ldVxK (x : Nibble)
  /-- FX15 `LD DT, Vx` (43_timers_keys R235). -/
  | ldDTVx (x : Nibble)
  /-- FX18 `LD ST, Vx` (43_timers_keys R236). -/
  | ldSTVx (x : Nibble)
  /-- FX1E `ADD I, Vx` (42_index_memory R202). -/
  | addIVx (x : Nibble)
  /-- FX29 `LD F, Vx` (42_index_memory R203). -/
  | ldFVx (x : Nibble)
  /-- FX33 `LD B, Vx` (42_index_memory R204). -/
  | ldBVx (x : Nibble)
  /-- FX55 `LD [I], Vx` (42_index_memory R205). -/
  | stRegs (x : Nibble)
  /-- FX65 `LD Vx, [I]` (42_index_memory R206). -/
  | ldRegs (x : Nibble)
  deriving DecidableEq, Repr

end Sys2Proof
end

