-- ==== Sys2Proof/WellFormed.lean ====
section
/-! DEFINITION. Which instruction terms stand for an opcode. The field types carry every width of 30_encoding R91 and every
register number is legal (R93), so the one thing left to check is the decode priority of R97. -/

namespace Sys2Proof

/-- The two values of `nnn` that family 0 gives to CLS and RET before SYS (30_encoding R97). -/
def sysReserved (nnn : Addr12) : Bool := nnn == 0x0E0#12 || nnn == 0x0EE#12

/-- `SYS 0x0E0` and `SYS 0x0EE` are no instructions: their words are CLS and RET (30_encoding R97). Every other term is
well formed. -/
def Instr.WellFormed : Instr → Bool
  | .sys nnn => !sysReserved nnn
  | .cls => true
  | .ret => true
  | .jp _ => true
  | .call _ => true
  | .seImm _ _ => true
  | .sneImm _ _ => true
  | .seReg _ _ => true
  | .ldImm _ _ => true
  | .addImm _ _ => true
  | .ldReg _ _ => true
  | .orReg _ _ => true
  | .andReg _ _ => true
  | .xorReg _ _ => true
  | .addReg _ _ => true
  | .sub _ _ => true
  | .shr _ _ => true
  | .subn _ _ => true
  | .shl _ _ => true
  | .sneReg _ _ => true
  | .ldI _ => true
  | .jpV0 _ => true
  | .rnd _ _ => true
  | .drw _ _ _ => true
  | .skp _ => true
  | .sknp _ => true
  | .ldVxDT _ => true
  | .ldVxK _ => true
  | .ldDTVx _ => true
  | .ldSTVx _ => true
  | .addIVx _ => true
  | .ldFVx _ => true
  | .ldBVx _ => true
  | .stRegs _ => true
  | .ldRegs _ => true

end Sys2Proof
end

