-- ==== Sys2Proof/Decode.lean ====
section
/-! DEFINITION. Fetching fields, decoding and encoding (30_encoding R90 to R99). Decoding is total: a word is one instruction or
an unsupported pattern, by name. -/

namespace Sys2Proof

/-- Why bytes are no instruction. -/
inductive DecodeError where
  /-- The word is one of the unsupported patterns of 30_encoding R98; raised as UnsupportedOpcode(op). -/
  | unsupportedOpcode (op : Word)
  /-- Fewer than the two bytes every instruction has (30_encoding R90); memory always gives two, so only a caller with a
  short list of bytes sees it. -/
  | tooShort
  deriving DecidableEq, Repr

/-- `F`, op[15:12] (30_encoding R91). -/
def opFamily (op : Word) : Nibble := op.extractLsb' 12 4

/-- `x`, op[11:8] (30_encoding R91). -/
def opX (op : Word) : Nibble := op.extractLsb' 8 4

/-- `y`, op[7:4] (30_encoding R91). -/
def opY (op : Word) : Nibble := op.extractLsb' 4 4

/-- `n`, op[3:0] (30_encoding R91). -/
def opN (op : Word) : Nibble := op.extractLsb' 0 4

/-- `nn`, op[7:0] (30_encoding R91). -/
def opNN (op : Word) : Byte := op.extractLsb' 0 8

/-- `nnn`, op[11:0] (30_encoding R91). -/
def opNNN (op : Word) : Addr12 := op.extractLsb' 0 12

/-- Family 0: 00E0 and 00EE first, every other value is SYS (30_encoding R97). -/
def decode0 (op : Word) : Instr :=
  if op = 0x00E0#16 then .cls
  else if op = 0x00EE#16 then .ret
  else .sys (opNNN op)

/-- Family 8: the low nibble selects (30_encoding R96); 8 to D and F are unsupported (R98). -/
def decode8 (op : Word) : Except DecodeError Instr :=
  match opN op with
  | 0x0#4 => .ok (.ldReg (opX op) (opY op))
  | 0x1#4 => .ok (.orReg (opX op) (opY op))
  | 0x2#4 => .ok (.andReg (opX op) (opY op))
  | 0x3#4 => .ok (.xorReg (opX op) (opY op))
  | 0x4#4 => .ok (.addReg (opX op) (opY op))
  | 0x5#4 => .ok (.sub (opX op) (opY op))
  | 0x6#4 => .ok (.shr (opX op) (opY op))
  | 0x7#4 => .ok (.subn (opX op) (opY op))
  | 0xE#4 => .ok (.shl (opX op) (opY op))
  | _ => .error (.unsupportedOpcode op)

/-- Family E: the low byte selects (30_encoding R96, R98). -/
def decodeE (op : Word) : Except DecodeError Instr :=
  match opNN op with
  | 0x9E#8 => .ok (.skp (opX op))
  | 0xA1#8 => .ok (.sknp (opX op))
  | _ => .error (.unsupportedOpcode op)

/-- Family F: the low byte selects (30_encoding R96, R98). -/
def decodeF (op : Word) : Except DecodeError Instr :=
  match opNN op with
  | 0x07#8 => .ok (.ldVxDT (opX op))
  | 0x0A#8 => .ok (.ldVxK (opX op))
  | 0x15#8 => .ok (.ldDTVx (opX op))
  | 0x18#8 => .ok (.ldSTVx (opX op))
  | 0x1E#8 => .ok (.addIVx (opX op))
  | 0x29#8 => .ok (.ldFVx (opX op))
  | 0x33#8 => .ok (.ldBVx (opX op))
  | 0x55#8 => .ok (.stRegs (opX op))
  | 0x65#8 => .ok (.ldRegs (opX op))
  | _ => .error (.unsupportedOpcode op)

/-- The whole opcode map (30_encoding R96 to R98): the top nibble selects the family. -/
def decode (op : Word) : Except DecodeError Instr :=
  match opFamily op with
  | 0x0#4 => .ok (decode0 op)
  | 0x1#4 => .ok (.jp (opNNN op))
  | 0x2#4 => .ok (.call (opNNN op))
  | 0x3#4 => .ok (.seImm (opX op) (opNN op))
  | 0x4#4 => .ok (.sneImm (opX op) (opNN op))
  | 0x5#4 => if opN op = 0x0#4 then .ok (.seReg (opX op) (opY op)) else .error (.unsupportedOpcode op)
  | 0x6#4 => .ok (.ldImm (opX op) (opNN op))
  | 0x7#4 => .ok (.addImm (opX op) (opNN op))
  | 0x8#4 => decode8 op
  | 0x9#4 => if opN op = 0x0#4 then .ok (.sneReg (opX op) (opY op)) else .error (.unsupportedOpcode op)
  | 0xA#4 => .ok (.ldI (opNNN op))
  | 0xB#4 => .ok (.jpV0 (opNNN op))
  | 0xC#4 => .ok (.rnd (opX op) (opNN op))
  | 0xD#4 => .ok (.drw (opX op) (opY op) (opN op))
  | 0xE#4 => decodeE op
  | 0xF#4 => decodeF op
  -- no 4-bit value is left
  | _ => .error (.unsupportedOpcode op)

/-- Big-endian: the byte at the lower address is bits 15..8 (20_memory R63, R64). -/
def wordOfBytes (hi lo : Byte) : Word := hi ++ lo

/-- The byte at the lower address of a word (20_memory R64). -/
def wordHi (op : Word) : Byte := op.extractLsb' 8 8

/-- The byte at the higher address of a word (20_memory R64). -/
def wordLo (op : Word) : Byte := op.extractLsb' 0 8

/-- Decoding bytes as they lie in memory: every instruction is exactly two bytes (30_encoding R90), and the rest is handed back. -/
def decodeBytes : List Byte → Except DecodeError (Instr × List Byte)
  | hi :: lo :: rest =>
    match decode (wordOfBytes hi lo) with
    | .ok i => .ok (i, rest)
    | .error e => .error e
  | [_] => .error .tooShort
  | [] => .error .tooShort

/-- The instruction read from a word whose bits are numbered as spec/opcode_table.json numbers them. All rows have 16 bits
(30_encoding R90); bits above `nbits` are 0. -/
def decodeTableWord (nbits w : Nat) : Option Instr :=
  let op : Word := BitVec.ofNat 16 (w % 2 ^ nbits)
  match decodeBytes [wordHi op, wordLo op] with
  | .ok (i, _) => some i
  | .error _ => none

/-! The encoder, written from the formats of 30_encoding R94 and the values of R96. -/

/-- Format NNN of 30_encoding R94. -/
def fmtNNN (f : Nibble) (nnn : Addr12) : Word := f ++ nnn

/-- Format XNN of 30_encoding R94. -/
def fmtXNN (f x : Nibble) (nn : Byte) : Word := f ++ (x ++ nn : BitVec 12)

/-- Formats XYS and XYN of 30_encoding R94. -/
def fmtXYN (f x y n : Nibble) : Word := f ++ (x ++ (y ++ n : BitVec 8) : BitVec 12)

/-- The 16-bit value of an instruction (30_encoding R96). -/
def encode : Instr → Word
  | .cls => 0x00E0#16
  | .ret => 0x00EE#16
  | .sys nnn => fmtNNN 0x0#4 nnn
  | .jp nnn => fmtNNN 0x1#4 nnn
  | .call nnn => fmtNNN 0x2#4 nnn
  | .seImm x nn => fmtXNN 0x3#4 x nn
  | .sneImm x nn => fmtXNN 0x4#4 x nn
  | .seReg x y => fmtXYN 0x5#4 x y 0x0#4
  | .ldImm x nn => fmtXNN 0x6#4 x nn
  | .addImm x nn => fmtXNN 0x7#4 x nn
  | .ldReg x y => fmtXYN 0x8#4 x y 0x0#4
  | .orReg x y => fmtXYN 0x8#4 x y 0x1#4
  | .andReg x y => fmtXYN 0x8#4 x y 0x2#4
  | .xorReg x y => fmtXYN 0x8#4 x y 0x3#4
  | .addReg x y => fmtXYN 0x8#4 x y 0x4#4
  | .sub x y => fmtXYN 0x8#4 x y 0x5#4
  | .shr x y => fmtXYN 0x8#4 x y 0x6#4
  | .subn x y => fmtXYN 0x8#4 x y 0x7#4
  | .shl x y => fmtXYN 0x8#4 x y 0xE#4
  | .sneReg x y => fmtXYN 0x9#4 x y 0x0#4
  | .ldI nnn => fmtNNN 0xA#4 nnn
  | .jpV0 nnn => fmtNNN 0xB#4 nnn
  | .rnd x nn => fmtXNN 0xC#4 x nn
  | .drw x y n => fmtXYN 0xD#4 x y n
  | .skp x => fmtXNN 0xE#4 x 0x9E#8
  | .sknp x => fmtXNN 0xE#4 x 0xA1#8
  | .ldVxDT x => fmtXNN 0xF#4 x 0x07#8
  | .ldVxK x => fmtXNN 0xF#4 x 0x0A#8
  | .ldDTVx x => fmtXNN 0xF#4 x 0x15#8
  | .ldSTVx x => fmtXNN 0xF#4 x 0x18#8
  | .addIVx x => fmtXNN 0xF#4 x 0x1E#8
  | .ldFVx x => fmtXNN 0xF#4 x 0x29#8
  | .ldBVx x => fmtXNN 0xF#4 x 0x33#8
  | .stRegs x => fmtXNN 0xF#4 x 0x55#8
  | .ldRegs x => fmtXNN 0xF#4 x 0x65#8

/-- The two bytes of an instruction as they lie in memory (20_memory R64). -/
def encodeBytes (i : Instr) : List Byte := [wordHi (encode i), wordLo (encode i)]

end Sys2Proof
end

