-- ==== Sys2Proof/Config.lean ====
section
/-! DEFINITION. What is fixed for the machine: the sizes the source gives (00_scope R7), the alternatives of the open parameters
(their chosen settings stand in Machine/Params.lean), and the free values, which nothing in Lean can evaluate. -/

namespace Sys2Proof

/-- `MEM_SIZE` (00_scope R7, 20_memory R60). -/
abbrev Config.memSize : Nat := 4096

/-- `FONT_BASE` (00_scope R7). -/
abbrev Config.fontBase : Nat := 0x000

/-- `FONT_SIZE` (00_scope R7). -/
abbrev Config.fontSize : Nat := 80

/-- `PROG_BASE` (00_scope R7, 70_reset_and_hazards R353). -/
abbrev Config.progBase : Nat := 0x200

/-- `MAX_PROG` (00_scope R7, 70_reset_and_hazards R352). -/
abbrev Config.maxProg : Nat := 3584

/-- `STACK_DEPTH` (00_scope R7). -/
abbrev Config.stackDepth : Nat := 16

/-- `TIMER_HZ` (00_scope R7). -/
abbrev Config.timerHz : Rat := 60

/-- `FB_W` (00_scope R7). -/
abbrev Config.fbW : Nat := 64

/-- `FB_H` (00_scope R7). -/
abbrev Config.fbH : Nat := 32

/-- `SYS_POLICY` (00_scope R7, decision D3). -/
inductive SysPolicy where
  | fault
  | nop
  deriving DecidableEq, Repr

/-- `SHIFT_SOURCE` (00_scope R7, decision D5). -/
inductive ShiftSource where
  | vx
  | vy
  deriving DecidableEq, Repr

/-- `JUMP_OFFSET_REG` (00_scope R7, decision D12). -/
inductive JumpOffsetReg where
  | v0
  | vx
  deriving DecidableEq, Repr

/-- `TIMER_PHASE` (00_scope R7, decision D15). -/
inductive TimerPhase where
  | before
  | after
  deriving DecidableEq, Repr

/-- FREE VALUE: the host clock's reading, in seconds, at the `k`-th `step(now, rnd)` the model takes from no list of inputs
(60_exceptions R313, decision D16: "a free input of each step"). Log entry 2. -/
opaque Config.hostNow : Nat → Rat

/-- FREE VALUE: the byte `rnd` of that same call (41_alu R172, decision D13: any value 0..255, no law between draws). Log
entry 3. -/
opaque Config.hostRnd : Nat → Byte

end Sys2Proof
end

