-- ==== Sys2Proof/Machine/Params.lean ====
section
/-! DEFINITION. The parameters of 00_scope R7 that the spec itself chose, each at the default shown there. Every meaning that
depends on one names it here, and both settings of each are modelled (log entries 7 and 8). -/

namespace Sys2Proof.Machine

/-- `SYS_POLICY` (00_scope R7, D3). -/
def Params.sysPolicy : SysPolicy := .fault

/-- `SHIFT_SOURCE` (00_scope R7, D5). -/
def Params.shiftSource : ShiftSource := .vx

/-- `LOGIC_CLEARS_VF` (00_scope R7, D7). -/
def Params.logicClearsVF : Bool := false

/-- `LOADSTORE_ADVANCES_I` (00_scope R7, D9). -/
def Params.loadStoreAdvancesI : Bool := false

/-- `FONT_INDEX_MASK` (00_scope R7, D10). -/
def Params.fontIndexMask : Byte := 0x0F#8

/-- `JUMP_OFFSET_REG` (00_scope R7, D12). -/
def Params.jumpOffsetReg : JumpOffsetReg := .v0

/-- `TIMER_PHASE` (00_scope R7, D15). -/
def Params.timerPhase : TimerPhase := .before

/-- `I_WIDTH` (00_scope R7, D8): FX1E keeps this many bits of the sum. -/
def Params.iWidth : Nat := 16

/-- `FONT`, glyph by glyph, top row first (70_reset_and_hazards R354, D23). -/
def Params.fontGlyphs : List (List Byte) :=
  [[0xF0, 0x90, 0x90, 0x90, 0xF0],
   [0x20, 0x60, 0x20, 0x20, 0x70],
   [0xF0, 0x10, 0xF0, 0x80, 0xF0],
   [0xF0, 0x10, 0xF0, 0x10, 0xF0],
   [0x90, 0x90, 0xF0, 0x10, 0x10],
   [0xF0, 0x80, 0xF0, 0x10, 0xF0],
   [0xF0, 0x80, 0xF0, 0x90, 0xF0],
   [0xF0, 0x10, 0x20, 0x40, 0x40],
   [0xF0, 0x90, 0xF0, 0x90, 0xF0],
   [0xF0, 0x90, 0xF0, 0x10, 0xF0],
   [0xF0, 0x90, 0xF0, 0x90, 0x90],
   [0xE0, 0x90, 0xE0, 0x90, 0xE0],
   [0xF0, 0x80, 0x80, 0x80, 0xF0],
   [0xE0, 0x90, 0x90, 0x90, 0xE0],
   [0xF0, 0x80, 0xF0, 0x80, 0xF0],
   [0xF0, 0x80, 0xF0, 0x80, 0x80]]

/-- `FONT[k]`: glyph g occupies bytes 5g to 5g+4 (70_reset_and_hazards R354). -/
def Params.fontByte (k : Nat) : Byte := (Params.fontGlyphs.getD (k / 5) []).getD (k % 5) 0#8

end Sys2Proof.Machine
end

