-- ==== Sys2Proof/Machine/State.lean ====
section
/-! DEFINITION. The machine's state as plain data: the fields of 10_state R30, the error record of 60_exceptions R308, the host
interface's outputs (R319), and the model's own fields (log entries 1, 3 and 9). -/

namespace Sys2Proof.Machine

/-- Why the machine stops with a fault. No instruction's meaning answers one. -/
inductive Fault where
  /-- Raised by a key-down that finds `awaiting_key` set and no opcode to fetch at pc: 43_timers_keys R234 says the fetch is
  in range, and 10_state R45 that no reachable state is otherwise. SAFE: only states no run reaches stop here (log entry 10). -/
  | keyWaitUnfetchable
  deriving DecidableEq, Repr

/-- Why the model gives no transition. -/
inductive Refusal where
  /-- An instruction whose arm has no meaning yet; no arm of `exec` answers it. SAFE. -/
  | notModelled (mnemonic : String)
  /-- Raised by a `step` call when no program is loaded: before a successful `load`, or after a failed one. The host breaks
  its duty and "a model gives such a call no transition" (60_exceptions R320, 70_reset_and_hazards R352; 93 U14). SAFE (log
  entry 9). -/
  | noSession
  /-- Raised by a `load` call after the first one, whether that succeeded or not: the host's duty is to "call `load` once"
  (70_reset_and_hazards R355) and "a call outside the contract has no transition" (decision D25). SAFE (log entry 9). -/
  | secondLoad
  deriving DecidableEq, Repr

/-- The error kinds of 60_exceptions R300 with the info each records. -/
inductive ErrorInfo where
  /-- Code 1: the 16-bit opcode value and `pc_f` (R301). -/
  | unsupportedOpcode (op : Word) (pcF : Word)
  /-- Code 2: `step` while `awaiting_key` (R302). -/
  | invalidState
  /-- Code 3: opcode and `pc_f` (R303). -/
  | stackOverflow (op : Word) (pcF : Word)
  /-- Code 4: opcode and `pc_f` (R304). -/
  | stackUnderflow (op : Word) (pcF : Word)
  /-- Code 5: the highest address the access would touch, the opcode (none for a fetch) and `pc_f` (R305). -/
  | memoryOutOfRange (addr : Nat) (op : Option Word) (pcF : Word)
  /-- Code 6: the program's length (R306). -/
  | programTooLarge (len : Nat)
  deriving DecidableEq, Repr

/-- The framebuffer, `FB[r][c]` at row r and column c (10_state R42). -/
abbrev Framebuffer := Vector (Vector Bool 64) 32

/-- Memory: the bytes that differ from what an unlisted address reads as, in rising order of address. -/
abbrev Memory := List Host.Cell

/-- The host's operations, one constructor per row of 60_exceptions R319. A key is always 0 to 15 (R320). -/
inductive HostOp where
  /-- `load(bytes)` (70_reset_and_hazards R351). -/
  | load (bytes : List Byte)
  /-- `step(now, rnd)` (30_encoding R95); `now` in seconds. -/
  | step (now : Rat) (rnd : Byte)
  /-- `keyDown(k)` (R317). -/
  | keyDown (k : Key)
  /-- `keyUp(k)` (R317). -/
  | keyUp (k : Key)
  /-- `readFramebuffer()` (R318). -/
  | readFramebuffer
  /-- `soundLevel()` (R316). -/
  | soundLevel
  /-- `isAwaitingKey()` (R319). -/
  | isAwaitingKey
  deriving DecidableEq, Repr

/-- What an operation hands back: the outputs column of 60_exceptions R319. -/
inductive Reply where
  /-- `load` and `step` with no error; running or suspended is `awaiting_key` itself. -/
  | ok
  /-- `load` and `step`: the error kind and info returned to the host (R307). -/
  | error (e : ErrorInfo)
  /-- `keyDown` and `keyUp` have no output. -/
  | noOutput
  /-- `readFramebuffer`: the 64 x 32 pixels. -/
  | pixels (fb : Framebuffer)
  /-- `soundLevel`: `sound_timer > 0`, and the raw counter. -/
  | sound (level : Bool) (raw : Byte)
  /-- `isAwaitingKey`. -/
  | awaiting (b : Bool)
  deriving DecidableEq, Repr

/-- Where the host's session stands with its one `load` (70_reset_and_hazards R352, R355; log entry 9). -/
inductive Session where
  /-- `load` has not been called. -/
  | notLoaded
  /-- `load` was called and gave no error: `step` may be called. -/
  | loaded
  /-- `load` was called and failed: "the session does not start" (R352). -/
  | failed
  deriving DecidableEq, Repr

/-- MachineState (10_state R30) with the record of R308, the outputs of R319 and the model's own fields. -/
structure State where
  /-- `memory` (R30, 20_memory R60). -/
  mem : Memory
  /-- `V[0..15]` (R32). -/
  v : Vector Byte 16
  /-- `I` (R34). -/
  i : Word
  /-- `stack[0..15]` (R37). -/
  stack : Vector Word 16
  /-- `sp`, 0..16 (R38). -/
  sp : Fin 17
  /-- `pc` (R35). -/
  pc : Word
  /-- `delay_timer` (R39). -/
  delayTimer : Byte
  /-- `sound_timer` (R40). -/
  soundTimer : Byte
  /-- `keyboard`, bit k set iff key k is held (R41). -/
  keyboard : Word
  /-- `framebuffer` (R42). -/
  framebuffer : Framebuffer
  /-- `awaiting_key` (R43). -/
  awaitingKey : Bool
  /-- `last_tick`, in seconds (R44); a rational number (log entry 2). -/
  lastTick : Rat
  /-- The first error of the run, which no later step clears (60_exceptions R308). -/
  error : Option ErrorInfo
  /-- What the last host operation handed back (60_exceptions R307, R319). -/
  reply : Reply
  /-- The model's own: which of `load` and `step` the host may call (60_exceptions R320, decision D25; log entry 9). -/
  session : Session
  /-- The model's own: the byte `rnd` of the current `step(now, rnd)` (30_encoding R95; log entry 3). -/
  rnd : Byte
  /-- The model's own: the host operations to come, oldest first (60_exceptions R319; log entry 1). -/
  inputs : List HostOp
  /-- The model's own: how many calls of `step` took their `now` and `rnd` from the free values (log entry 1). -/
  inputIndex : Nat
  deriving DecidableEq, Repr

/-- The values at creation that the spec leaves arbitrary (70_reset_and_hazards R350, decision D17), those the Loader then writes
over (memory, sp, pc), and what the host will do, which the spec leaves to the host (00_scope R3): the operations to come and the
counter of the free ones, both under no law (log entry 1). -/
structure Launch where
  mem : Memory
  v : Vector Byte 16
  i : Word
  stack : Vector Word 16
  sp : Fin 17
  pc : Word
  delayTimer : Byte
  soundTimer : Byte
  framebuffer : Framebuffer
  lastTick : Rat
  inputs : List HostOp
  inputIndex : Nat
  deriving DecidableEq, Repr

/-- Every pixel off. -/
def Framebuffer.clear : Framebuffer := Vector.replicate 32 (Vector.replicate 64 false)

/-- The machine right after reset: created and loaded (10_state R46, 70_reset_and_hazards R351) with a program of length 0, the
unspecified fields at the clean launch's zeros (R356; DESIGN CHOICE, log entries 5 and 6). -/
def State.reset : State where
  mem := []
  v := Vector.replicate 16 0#8
  i := 0#16
  stack := Vector.replicate 16 0#16
  sp := 0
  pc := 0x200#16
  delayTimer := 0#8
  soundTimer := 0#8
  keyboard := 0#16
  framebuffer := Framebuffer.clear
  awaitingKey := false
  lastTick := 0
  error := none
  reply := .ok
  session := .loaded
  rnd := 0#8
  inputs := []
  inputIndex := 0

end Sys2Proof.Machine
end

