-- ==== Sys2Proof/Machine/Ops.lean ====
section
/-! DEFINITION. The named operations over memory, registers, pc, stack, framebuffer, keyboard and timers; taking an error, and
loading a program. Every meaning is written over these. -/

namespace Sys2Proof.Machine

/-! ## Memory (20_memory) -/

/-- What an address that the list does not name reads as: the font at 0x000-0x04F and 0 elsewhere, the contents the Loader
leaves where no program byte stands (70_reset_and_hazards R351, R354; 20_memory R69). -/
def Memory.unlisted (a : Nat) : Byte :=
  if a < Config.fontBase + Config.fontSize then Params.fontByte (a - Config.fontBase) else 0#8

/-- `memory[a]` (20_memory R61). -/
def Memory.read : Memory → Nat → Byte
  | [], a => Memory.unlisted a
  | (k, b) :: rest, a => if k = a then b else Memory.read rest a

/-- Put a cell for an address the list does not name, keeping rising order and naming nothing that reads so anyway. -/
def Memory.insert (a : Nat) (v : Byte) : Memory → Memory
  | [] => if v = Memory.unlisted a then [] else [(a, v)]
  | (k, b) :: rest =>
    if a < k then (if v = Memory.unlisted a then (k, b) :: rest else (a, v) :: (k, b) :: rest)
    else (k, b) :: Memory.insert a v rest

/-- `memory[a] <- v`: that byte only (20_memory R62). -/
def Memory.write (m : Memory) (a : Nat) (v : Byte) : Memory :=
  Memory.insert a v (m.filter (fun c => c.1 ≠ a))

/-- The canonical form: addresses strictly rising, all of them addresses of 20_memory R60, and no cell that says what an
unlisted address reads as. -/
abbrev Memory.wf (m : Memory) : Prop :=
  m.Pairwise (fun p q => p.1 < q.1) ∧ ∀ c ∈ m, c.1 < Config.memSize ∧ c.2 ≠ Memory.unlisted c.1

/-- The range check of a block of `n` bytes at `a`: the highest address it will touch, checked before any byte is touched
(20_memory R67, 42_index_memory R200). `some hi` names an address above 0xFFF. -/
def Memory.outOfRange (a n : Nat) : Option Nat :=
  if n ≠ 0 ∧ Config.memSize ≤ a + n - 1 then some (a + n - 1) else none

/-- The bytes at `a`, `a+1`, ..., `n` of them. -/
def Memory.bytes (m : Memory) (a : Nat) : Nat → List Byte
  | 0 => []
  | n + 1 => Memory.read m a :: Memory.bytes m (a + 1) n

/-- Write bytes at `a`, `a+1`, ..., in that order. -/
def Memory.writeBytes (m : Memory) (a : Nat) : List Byte → Memory
  | [] => m
  | b :: bs => Memory.writeBytes (Memory.write m a b) (a + 1) bs

/-- A block read: all bytes, or MemoryOutOfRange of the highest address with nothing read (20_memory R67). -/
def Memory.readBlock (m : Memory) (a n : Nat) : Except Nat (List Byte) :=
  match Memory.outOfRange a n with
  | some hi => .error hi
  | none => .ok (Memory.bytes m a n)

/-- A block write: all bytes, or MemoryOutOfRange of the highest address with nothing written (20_memory R67). -/
def Memory.writeBlock (m : Memory) (a : Nat) (bs : List Byte) : Except Nat Memory :=
  match Memory.outOfRange a bs.length with
  | some hi => .error hi
  | none => .ok (Memory.writeBytes m a bs)

/-- `Fetch16(a)`: big-endian, MemoryOutOfRange(a + 1) when a + 1 > 0xFFF (20_memory R63). -/
def Memory.fetch16 (m : Memory) (a : Nat) : Except Nat Word :=
  if Config.memSize ≤ a + 1 then .error (a + 1)
  else .ok (wordOfBytes (Memory.read m a) (Memory.read m (a + 1)))

/-- Memory cleared to zero, with the font at 0x000 and `bytes` from `a` on (70_reset_and_hazards R351), in canonical form. -/
def Memory.ofProgram (a : Nat) : List Byte → Memory
  | [] => []
  | b :: bs => if b = Memory.unlisted a then Memory.ofProgram (a + 1) bs else (a, b) :: Memory.ofProgram (a + 1) bs

/-! ## Registers (10_state R32, R33) -/

/-- `V[x]`. -/
def State.getV (s : State) (x : Nibble) : Byte := s.v[x.toNat]'x.isLt

/-- `V[x] <- b`. -/
def State.setV (s : State) (x : Nibble) (b : Byte) : State := { s with v := s.v.set x.toNat b x.isLt }

/-- `VF <- b`. -/
def State.setVF (s : State) (b : Byte) : State := s.setV 0xF#4 b

/-- `V[0], ..., V[n-1]`, the registers a block store writes out (42_index_memory R205). -/
def State.firstV (s : State) (n : Nat) : List Byte := s.v.toList.take n

/-- `V[k], V[k+1], ...` from a list of bytes, in that order (42_index_memory R206). -/
def setVFrom (v : Vector Byte 16) (k : Nat) : List Byte → Vector Byte 16
  | [] => v
  | b :: bs => setVFrom (v.setIfInBounds k b) (k + 1) bs

/-- `I <- a`. -/
def State.setI (s : State) (a : Word) : State := { s with i := a }

/-- `pc <- t` (40_flow R130: never checked when it is set). -/
def State.setPc (s : State) (t : Word) : State := { s with pc := t }

/-- Add 2 to the post-increment pc when the condition holds (40_flow R130, 10_state R36). -/
def State.skipIf (s : State) (c : Bool) : State := { s with pc := if c then s.pc + 2 else s.pc }

/-- `pc_f`, the address the executing instruction was fetched from: on entry to every instruction pc = pc_f + 2 (00_scope R12). -/
def State.pcF (s : State) : Word := s.pc - 2

/-! ## Errors (60_exceptions R300 to R310) -/

/-- The numeric code of an error kind (60_exceptions R300). -/
def ErrorInfo.code : ErrorInfo → Nat
  | .unsupportedOpcode _ _ => 1
  | .invalidState => 2
  | .stackOverflow _ _ => 3
  | .stackUnderflow _ _ => 4
  | .memoryOutOfRange _ _ _ => 5
  | .programTooLarge _ => 6

/-- TAKING AN ERROR (60_exceptions R307): nothing of the instruction is committed and pc stays where the fetch left it (pc_f + 2
for an error of the instruction, pc_f for one of the fetch); the error goes to the host, and the first one of a run is
recorded for good (R308). THE RETURN: there is no return instruction and no handler; the host resumes by calling `step` again
(R310), which `HostOp.step` does from this very state. -/
def State.raise (e : ErrorInfo) (s : State) : State :=
  { s with error := some (s.error.getD e), reply := .error e }

/-- MemoryOutOfRange of a data access of the instruction `i` (60_exceptions R300 row 5, R305). -/
def State.raiseRange (addr : Nat) (i : Instr) (s : State) : State :=
  s.raise (.memoryOutOfRange addr (some (encode i)) s.pcF)

/-! ## Return stack (10_state R37, R38) -/

/-- Push a return address: `stack[sp] <- a; sp <- sp + 1`; none when the stack is full (40_flow R134). -/
def State.push (s : State) (a : Word) : Option State :=
  if h : s.sp.val < Config.stackDepth then
    some { s with stack := s.stack.set s.sp.val a h, sp := ⟨s.sp.val + 1, Nat.succ_lt_succ h⟩ }
  else none

/-- Pop a return address: `sp <- sp - 1`, then `stack[sp]`, the slot keeping its value (40_flow R132, D28); none when the stack
is empty. -/
def State.pop (s : State) : Option (Word × State) :=
  if h : 0 < s.sp.val then
    some (s.stack[s.sp.val - 1]'(by have := s.sp.isLt; omega),
      { s with sp := ⟨s.sp.val - 1, by have := s.sp.isLt; omega⟩ })
  else none

/-! ## Framebuffer (10_state R42, 44_display R265) -/

/-- `FB[r][c]`; false off the screen. -/
def Framebuffer.pixel (fb : Framebuffer) (r c : Nat) : Bool :=
  if h : r < 32 ∧ c < 64 then (fb[r]'h.1)[c]'h.2 else false

/-- `FB[r][c] <- FB[r][c] XOR 1` (44_display R265). -/
def Framebuffer.toggle (fb : Framebuffer) (r c : Nat) : Framebuffer :=
  if h : r < 32 ∧ c < 64 then fb.set r ((fb[r]'h.1).set c (!(fb[r]'h.1)[c]'h.2) h.2) h.1 else fb

/-! ## Timers (60_exceptions R313) -/

/-- Down by 1, not below 0. -/
def decTimer (t : Byte) : Byte := if t = 0#8 then 0#8 else t - 1#8

/-- The condition of the gate, `(now - last_tick) * 60 >= 1` (60_exceptions R313). -/
def gateFires (now lastTick : Rat) : Bool := decide (1 ≤ (now - lastTick) * Config.timerHz)

/-- `TimerGate(now)` (60_exceptions R313): both timers, and the timestamp reset to `now` even when both are 0. -/
def State.timerGate (now : Rat) (s : State) : State :=
  { s with
    delayTimer := if gateFires now s.lastTick then decTimer s.delayTimer else s.delayTimer
    soundTimer := if gateFires now s.lastTick then decTimer s.soundTimer else s.soundTimer
    lastTick := if gateFires now s.lastTick then now else s.lastTick }

/-! ## Keyboard (60_exceptions R317, 43_timers_keys R234) -/

/-- `1 << k` (00_scope R10). -/
def keyMask (k : Key) : Word := 1#16 <<< k.val

/-- The keyboard part of `keyDown(k)` (60_exceptions R317). -/
def State.pressKey (s : State) (k : Key) : State := { s with keyboard := s.keyboard ||| keyMask k }

/-- The keyboard part of `keyUp(k)` (60_exceptions R317). -/
def State.releaseKey (s : State) (k : Key) : State := { s with keyboard := s.keyboard &&& ~~~(keyMask k) }

/-- Key-wait completion (43_timers_keys R234): the destination register is read again from the opcode at pc. -/
def State.keyWaitComplete (s : State) (k : Key) : Host.Outcome State Fault Refusal :=
  match s.mem.fetch16 s.pc.toNat with
  | .error _ => .fault .keyWaitUnfetchable
  | .ok op => .next { s.setV (opX op) (BitVec.ofNat 8 k.val) with awaitingKey := false, pc := s.pc + 2 }

/-- `keyDown(k)` (60_exceptions R317). -/
def State.keyDown (s : State) (k : Key) : Host.Outcome State Fault Refusal :=
  if s.awaitingKey then (s.pressKey k).keyWaitComplete k else .next (s.pressKey k)

/-- `keyUp(k)` (60_exceptions R317): never completes a wait (43_timers_keys R234). -/
def State.keyUp (s : State) (k : Key) : State := s.releaseKey k

/-! ## Creation and the Loader (70_reset_and_hazards R350 to R352) -/

/-- The state at creation (70_reset_and_hazards R350): the arbitrary launch values, no key held, not suspended, no
`load` yet. The host's operations to come are as free as the launch values (log entry 1). -/
def State.created (l : Launch) : State where
  mem := l.mem
  v := l.v
  i := l.i
  stack := l.stack
  sp := l.sp
  pc := l.pc
  delayTimer := l.delayTimer
  soundTimer := l.soundTimer
  keyboard := 0#16
  framebuffer := l.framebuffer
  awaitingKey := false
  lastTick := l.lastTick
  error := none
  reply := .noOutput
  session := .notLoaded
  rnd := 0#8
  inputs := l.inputs
  inputIndex := l.inputIndex

/-- `load(bytes)` (70_reset_and_hazards R351): the size is checked before any write (R352), and on failure no session
starts. When the host may call it: `State.hostLoad`. -/
def State.load (bytes : List Byte) (s : State) : State :=
  if Config.maxProg < bytes.length then { s.raise (.programTooLarge bytes.length) with session := .failed }
  else { s with
    mem := Memory.ofProgram Config.progBase bytes
    pc := BitVec.ofNat 16 Config.progBase
    sp := 0
    session := .loaded
    reply := .ok }

/-! ## What the host reads (60_exceptions R316, R318, R319) -/

/-- `readFramebuffer()` (60_exceptions R318). -/
def State.readFramebuffer (s : State) : Framebuffer := s.framebuffer

/-- `beep = b2n(sound_timer > 0)` (60_exceptions R316). -/
def State.beep (s : State) : Bool := decide (s.soundTimer ≠ 0#8)

/-- `isAwaitingKey()` (60_exceptions R319). -/
def State.isAwaitingKey (s : State) : Bool := s.awaitingKey

end Sys2Proof.Machine
end

