-- ==== Sys2Proof/Machine/Operands.lean ====
section
/-! DEFINITION. The operand forms: which value or address each field of an instruction stands for. -/

namespace Sys2Proof.Machine

/-- An `nnn` operand as an address (30_encoding R92: zero-extended). -/
def addrOf (nnn : Addr12) : Word := nnn.setWidth 16

/-- The register 8XY6 and 8XYE shift, by `SHIFT_SOURCE` (41_alu R169, R171, D5). -/
def State.shiftOperand (s : State) (p : ShiftSource) (x y : Nibble) : Byte :=
  match p with
  | .vx => s.getV x
  | .vy => s.getV y

/-- The offset BNNN adds, by `JUMP_OFFSET_REG`: V0, or Vx with x = op[11:8] (40_flow R139, D12). -/
def State.jumpOffset (s : State) (p : JumpOffsetReg) (nnn : Addr12) : Byte :=
  match p with
  | .v0 => s.getV 0x0#4
  | .vx => s.getV (nnn.extractLsb' 8 4)

/-- `V[x] <= 0xF and keyboard[V[x]] = 1` (43_timers_keys R230, D14). -/
def State.keyHeld (s : State) (x : Nibble) : Bool :=
  decide ((s.getV x).toNat ≤ 0xF) && s.keyboard.getLsbD (s.getV x).toNat

/-- `FONT_BASE + 5 * (b AND FONT_INDEX_MASK)` (42_index_memory R203, D10). -/
def glyphAddr (mask b : Byte) : Word := BitVec.ofNat 16 (Config.fontBase + 5 * (b &&& mask).toNat)

/-- The three decimal digits, hundreds first (42_index_memory R204, D11). -/
def bcdDigits (b : Byte) : List Byte :=
  [BitVec.ofNat 8 (b.toNat / 100), BitVec.ofNat 8 (b.toNat / 10 % 10), BitVec.ofNat 8 (b.toNat % 10)]

/-- `(I + b) mod 2^I_WIDTH` (42_index_memory R202, D8). -/
def addIndex (width : Nat) (i : Word) (b : Byte) : Word := BitVec.ofNat 16 ((i.toNat + b.toNat) % 2 ^ width)

/-- I after FX55 and FX65: unchanged, or `(I + x + 1) mod 2^16` where `LOADSTORE_ADVANCES_I` (42_index_memory R205, R206, D9). -/
def indexAfterBlock (advances : Bool) (i : Word) (x : Nibble) : Word :=
  if advances then BitVec.ofNat 16 (i.toNat + x.toNat + 1) else i

/-- A sprite row's bits, most significant first (44_display R264). -/
def rowBits (row : Byte) : List Bool :=
  [row.getLsbD 7, row.getLsbD 6, row.getLsbD 5, row.getLsbD 4, row.getLsbD 3, row.getLsbD 2, row.getLsbD 1, row.getLsbD 0]

end Sys2Proof.Machine
end

