-- ==== Sys2Proof/Machine/Flags.lean ====
section
/-! DEFINITION. Every computation of VF, and the writing of a result with its flag (41_alu R160, 00_scope R13). -/

namespace Sys2Proof.Machine

/-- "VF=1 iff the 8-bit sum overflows 255" (41_alu R167). -/
def addFlag (a b : Byte) : Bool := decide (255 < a.toNat + b.toNat)

/-- "the minuend is strictly greater than the subtrahend" (41_alu R168, R170); 90_conflicts C7: not the borrow's complement. -/
def subFlag (minuend subtrahend : Byte) : Bool := decide (subtrahend.toNat < minuend.toNat)

/-- "original bit 0" (41_alu R169). -/
def shrFlag (a : Byte) : Bool := a.getLsbD 0

/-- "original bit 7" (41_alu R171). -/
def shlFlag (a : Byte) : Bool := a.getLsbD 7

/-- Write Vx, then VF: with x = 0xF the flag is what stays (00_scope R13, D6). -/
def State.setResult (s : State) (x : Nibble) (r : Byte) (flag : Bool) : State := (s.setV x r).setVF (b2n flag)

/-- Write the result of a logic operation, and clear VF where `LOGIC_CLEARS_VF` (41_alu R164 to R166, D7). -/
def State.setLogic (s : State) (clearsVF : Bool) (x : Nibble) (r : Byte) : State :=
  if clearsVF then (s.setV x r).setVF 0#8 else s.setV x r

end Sys2Proof.Machine
end

