-- ==== Sys2Proof/Machine/Alu.lean ====
section
/-! DEFINITION. Register loads, arithmetic, logic and the random byte (41_alu R161 to R172). No instruction here raises an error. -/

namespace Sys2Proof.Machine

/-- 6XNN (41_alu R161). -/
def execLdImm (x : Nibble) (nn : Byte) (s : State) : Host.Outcome State Fault Refusal :=
  .next (s.setV x nn)

/-- 7XNN (41_alu R162, D29): VF is no flag here. -/
def execAddImm (x : Nibble) (nn : Byte) (s : State) : Host.Outcome State Fault Refusal :=
  .next (s.setV x (s.getV x + nn))

/-- 8XY0 (41_alu R163). -/
def execLdReg (x y : Nibble) (s : State) : Host.Outcome State Fault Refusal :=
  .next (s.setV x (s.getV y))

/-- 8XY1 (41_alu R164). -/
def execOrReg (x y : Nibble) (s : State) : Host.Outcome State Fault Refusal :=
  .next (s.setLogic Params.logicClearsVF x (s.getV x ||| s.getV y))

/-- 8XY2 (41_alu R165). -/
def execAndReg (x y : Nibble) (s : State) : Host.Outcome State Fault Refusal :=
  .next (s.setLogic Params.logicClearsVF x (s.getV x &&& s.getV y))

/-- 8XY3 (41_alu R166). -/
def execXorReg (x y : Nibble) (s : State) : Host.Outcome State Fault Refusal :=
  .next (s.setLogic Params.logicClearsVF x (s.getV x ^^^ s.getV y))

/-- 8XY4 (41_alu R167). -/
def execAddReg (x y : Nibble) (s : State) : Host.Outcome State Fault Refusal :=
  .next (s.setResult x (s.getV x + s.getV y) (addFlag (s.getV x) (s.getV y)))

/-- 8XY5 (41_alu R168). -/
def execSub (x y : Nibble) (s : State) : Host.Outcome State Fault Refusal :=
  .next (s.setResult x (s.getV x - s.getV y) (subFlag (s.getV x) (s.getV y)))

/-- 8XY6 (41_alu R169). -/
def execShr (x y : Nibble) (s : State) : Host.Outcome State Fault Refusal :=
  .next (s.setResult x (s.shiftOperand Params.shiftSource x y >>> 1) (shrFlag (s.shiftOperand Params.shiftSource x y)))

/-- 8XY7 (41_alu R170). -/
def execSubn (x y : Nibble) (s : State) : Host.Outcome State Fault Refusal :=
  .next (s.setResult x (s.getV y - s.getV x) (subFlag (s.getV y) (s.getV x)))

/-- 8XYE (41_alu R171). -/
def execShl (x y : Nibble) (s : State) : Host.Outcome State Fault Refusal :=
  .next (s.setResult x (s.shiftOperand Params.shiftSource x y <<< 1) (shlFlag (s.shiftOperand Params.shiftSource x y)))

/-- CXNN (41_alu R172): `rnd` is the free input byte of the step. -/
def execRnd (x : Nibble) (nn : Byte) (s : State) : Host.Outcome State Fault Refusal :=
  .next (s.setV x (s.rnd &&& nn))

end Sys2Proof.Machine
end

