-- ==== Sys2Proof/Machine/Display.lean ====
section
/-! DEFINITION. The display instructions and the sprite blit (44_display R260 to R266). -/

namespace Sys2Proof.Machine

/-- One sprite row's bits from column `sx` of screen row `sy` on: stop at the right edge (R264), toggle under a 1 bit and
remember a pixel that was on (R265). -/
def drawBits (sy : Nat) : List Bool → Nat → Framebuffer × Bool → Framebuffer × Bool
  | [], _, acc => acc
  | bit :: bits, sx, acc =>
    if Config.fbW ≤ sx then acc
    else if bit then drawBits sy bits (sx + 1) (acc.1.toggle sy sx, acc.2 || acc.1.pixel sy sx)
    else drawBits sy bits (sx + 1) acc

/-- The sprite's rows from screen row `sy` on, left column `ox`: stop at the bottom edge (R263). -/
def drawRows (ox : Nat) : List Byte → Nat → Framebuffer × Bool → Framebuffer × Bool
  | [], _, acc => acc
  | row :: rows, sy, acc =>
    if Config.fbH ≤ sy then acc else drawRows ox rows (sy + 1) (drawBits sy (rowBits row) ox acc)

/-- `draw_sprite(ox, oy, n)`: the new framebuffer, and whether some pixel was turned off (R262). -/
def drawSprite (fb : Framebuffer) (ox oy : Nat) (rows : List Byte) : Framebuffer × Bool :=
  drawRows ox rows oy (fb, false)

/-- 00E0 (44_display R260). -/
def execCls (s : State) : Host.Outcome State Fault Refusal :=
  .next { s with framebuffer := Framebuffer.clear }

/-- Put the blit's outcome into the state: pixels, and VF from the collision (44_display R261). -/
def State.afterDraw (s : State) (d : Framebuffer × Bool) : State :=
  { s with framebuffer := d.1 }.setVF (b2n d.2)

/-- DXYN (44_display R261): coordinates are read before VF is written; all `n` bytes are range-checked first (D24). -/
def execDrw (x y n : Nibble) (s : State) : Host.Outcome State Fault Refusal :=
  match s.mem.readBlock s.i.toNat n.toNat with
  | .error hi => .next (s.raiseRange hi (.drw x y n))
  | .ok rows => .next (s.afterDraw (drawSprite s.framebuffer (s.getV x).toNat (s.getV y).toNat rows))

end Sys2Proof.Machine
end

