-- ==== Sys2Proof/Machine/Flow.lean ====
section
/-! DEFINITION. Control flow (40_flow R131 to R139). pc is the post-increment pc on entry (00_scope R12). -/

namespace Sys2Proof.Machine

/-- SYS under either `SYS_POLICY` (40_flow R131, D3). -/
def State.sysCall (s : State) (p : SysPolicy) (nnn : Addr12) : State :=
  match p with
  | .fault => s.raise (.unsupportedOpcode (encode (.sys nnn)) s.pcF)
  | .nop => s

/-- 0NNN (40_flow R131). -/
def execSys (nnn : Addr12) (s : State) : Host.Outcome State Fault Refusal :=
  .next (s.sysCall Params.sysPolicy nnn)

/-- 00EE (40_flow R132). -/
def execRet (s : State) : Host.Outcome State Fault Refusal :=
  match s.pop with
  | none => .next (s.raise (.stackUnderflow (encode .ret) s.pcF))
  | some (a, t) => .next (t.setPc a)

/-- 1NNN (40_flow R133). -/
def execJp (nnn : Addr12) (s : State) : Host.Outcome State Fault Refusal :=
  .next (s.setPc (addrOf nnn))

/-- 2NNN (40_flow R134). -/
def execCall (nnn : Addr12) (s : State) : Host.Outcome State Fault Refusal :=
  match s.push s.pc with
  | none => .next (s.raise (.stackOverflow (encode (.call nnn)) s.pcF))
  | some t => .next (t.setPc (addrOf nnn))

/-- 3XNN (40_flow R135). -/
def execSeImm (x : Nibble) (nn : Byte) (s : State) : Host.Outcome State Fault Refusal :=
  .next (s.skipIf (s.getV x == nn))

/-- 4XNN (40_flow R136). -/
def execSneImm (x : Nibble) (nn : Byte) (s : State) : Host.Outcome State Fault Refusal :=
  .next (s.skipIf (s.getV x != nn))

/-- 5XY0 (40_flow R137). -/
def execSeReg (x y : Nibble) (s : State) : Host.Outcome State Fault Refusal :=
  .next (s.skipIf (s.getV x == s.getV y))

/-- 9XY0 (40_flow R138). -/
def execSneReg (x y : Nibble) (s : State) : Host.Outcome State Fault Refusal :=
  .next (s.skipIf (s.getV x != s.getV y))

/-- BNNN (40_flow R139): no wrap, since 0xFFF + 0xFF is below 2^16. -/
def execJpV0 (nnn : Addr12) (s : State) : Host.Outcome State Fault Refusal :=
  .next (s.setPc (addrOf nnn + zext16 (s.jumpOffset Params.jumpOffsetReg nnn)))

end Sys2Proof.Machine
end

