-- ==== Sys2Proof/Machine/Index.lean ====
section
/-! DEFINITION. The index register and the instructions that move data through it (42_index_memory R200 to R206). -/

namespace Sys2Proof.Machine

/-- ANNN (42_index_memory R201). -/
def execLdI (nnn : Addr12) (s : State) : Host.Outcome State Fault Refusal :=
  .next (s.setI (addrOf nnn))

/-- FX1E (42_index_memory R202): VF unchanged. -/
def execAddIVx (x : Nibble) (s : State) : Host.Outcome State Fault Refusal :=
  .next (s.setI (addIndex Params.iWidth s.i (s.getV x)))

/-- FX29 (42_index_memory R203). -/
def execLdFVx (x : Nibble) (s : State) : Host.Outcome State Fault Refusal :=
  .next (s.setI (glyphAddr Params.fontIndexMask (s.getV x)))

/-- FX33 (42_index_memory R204). -/
def execLdBVx (x : Nibble) (s : State) : Host.Outcome State Fault Refusal :=
  match s.mem.writeBlock s.i.toNat (bcdDigits (s.getV x)) with
  | .error hi => .next (s.raiseRange hi (.ldBVx x))
  | .ok m => .next { s with mem := m }

/-- FX55 (42_index_memory R205). -/
def execStRegs (x : Nibble) (s : State) : Host.Outcome State Fault Refusal :=
  match s.mem.writeBlock s.i.toNat (s.firstV (x.toNat + 1)) with
  | .error hi => .next (s.raiseRange hi (.stRegs x))
  | .ok m => .next { s with mem := m, i := indexAfterBlock Params.loadStoreAdvancesI s.i x }

/-- FX65 (42_index_memory R206). -/
def execLdRegs (x : Nibble) (s : State) : Host.Outcome State Fault Refusal :=
  match s.mem.readBlock s.i.toNat (x.toNat + 1) with
  | .error hi => .next (s.raiseRange hi (.ldRegs x))
  | .ok bs => .next { s with v := setVFrom s.v 0 bs, i := indexAfterBlock Params.loadStoreAdvancesI s.i x }

end Sys2Proof.Machine
end

