-- ==== Sys2Proof/Machine/Keys.lean ====
section
/-! DEFINITION. Keyboard and timer instructions (43_timers_keys R230 to R236); the key-wait's completion is in Ops. -/

namespace Sys2Proof.Machine

/-- EX9E (43_timers_keys R230). -/
def execSkp (x : Nibble) (s : State) : Host.Outcome State Fault Refusal :=
  .next (s.skipIf (s.keyHeld x))

/-- EXA1 (43_timers_keys R231). -/
def execSknp (x : Nibble) (s : State) : Host.Outcome State Fault Refusal :=
  .next (s.skipIf (!s.keyHeld x))

/-- FX07 (43_timers_keys R232). -/
def execLdVxDT (x : Nibble) (s : State) : Host.Outcome State Fault Refusal :=
  .next (s.setV x s.delayTimer)

/-- FX0A (43_timers_keys R233): a suspend, and pc back at this instruction; `x` is read again at completion (R234). -/
def execLdVxK (_x : Nibble) (s : State) : Host.Outcome State Fault Refusal :=
  .next { s with awaitingKey := true, pc := s.pc - 2 }

/-- FX15 (43_timers_keys R235): `last_tick` is untouched. -/
def execLdDTVx (x : Nibble) (s : State) : Host.Outcome State Fault Refusal :=
  .next { s with delayTimer := s.getV x }

/-- FX18 (43_timers_keys R236): `last_tick` is untouched. -/
def execLdSTVx (x : Nibble) (s : State) : Host.Outcome State Fault Refusal :=
  .next { s with soundTimer := s.getV x }

end Sys2Proof.Machine
end

