-- ==== Sys2Proof/Machine/Cycle.lean ====
section
/-! DEFINITION. The host's `step(now, rnd)` (30_encoding R95), its other operations (60_exceptions R319), and where the next
operation comes from (log entry 1). -/

namespace Sys2Proof.Machine

/-- After the fetch: pc past the two bytes, the step's free byte at hand (30_encoding R95). -/
def State.fetched (rnd : Byte) (s : State) : State := { s with pc := s.pc + 2, rnd := rnd }

/-- Fetch, decode and execute (30_encoding R95); the first check that fails is the one reported (60_exceptions R309). -/
def State.cycle (rnd : Byte) (s : State) : Host.Outcome State Fault Refusal :=
  match s.mem.fetch16 s.pc.toNat with
  | .error hi => .next (s.raise (.memoryOutOfRange hi none s.pc))
  | .ok op =>
    match decode op with
    | .error _ => .next ((s.fetched rnd).raise (.unsupportedOpcode op s.pc))
    | .ok i => exec i (s.fetched rnd)

/-- The gate where `TIMER_PHASE = before` (30_encoding R95, D15). -/
def State.gateBefore (p : TimerPhase) (now : Rat) (s : State) : State :=
  match p with
  | .before => s.timerGate now
  | .after => s

/-- The gate where `TIMER_PHASE = after`, "only if Execute raised nothing" (30_encoding R95). -/
def gateAfter (p : TimerPhase) (now : Rat) (o : Host.Outcome State Fault Refusal) : Host.Outcome State Fault Refusal :=
  match p, o with
  | .after, .next t => if t.reply = .ok then .next (t.timerGate now) else .next t
  | .after, .fault r => .fault r
  | .after, .refused r => .refused r
  | .before, o => o

/-- `step(now, rnd)` (30_encoding R95). While suspended it raises InvalidState and changes nothing else (60_exceptions R302);
with no session it is outside the host's contract (R320). -/
def State.hostStep (now : Rat) (rnd : Byte) (s : State) : Host.Outcome State Fault Refusal :=
  match s.session with
  | .loaded =>
    if s.awaitingKey then .next (s.raise .invalidState)
    else gateAfter Params.timerPhase now (({ s with reply := .ok }.gateBefore Params.timerPhase now).cycle rnd)
  | .notLoaded => .refused .noSession
  | .failed => .refused .noSession

/-- `load(bytes)` as the host calls it: once (70_reset_and_hazards R355); "a call outside the contract has no transition" (60_exceptions
R320, decision D25), so neither a load in a session nor one after a failed load has one. -/
def State.hostLoad (bytes : List Byte) (s : State) : Host.Outcome State Fault Refusal :=
  match s.session with
  | .notLoaded => .next (s.load bytes)
  | .loaded => .refused .secondLoad
  | .failed => .refused .secondLoad

/-- One host operation (60_exceptions R319), with the output it hands back. -/
def State.perform (op : HostOp) (s : State) : Host.Outcome State Fault Refusal :=
  match op with
  | .load bytes => s.hostLoad bytes
  | .step now rnd => s.hostStep now rnd
  | .keyDown k => { s with reply := .noOutput }.keyDown k
  | .keyUp k => .next ({ s with reply := .noOutput }.keyUp k)
  | .readFramebuffer => .next { s with reply := .pixels s.readFramebuffer }
  | .soundLevel => .next { s with reply := .sound s.beep s.soundTimer }
  | .isAwaitingKey => .next { s with reply := .awaiting s.isAwaitingKey }

/-- The next host operation, and the state with it taken off: the head of `inputs`, or, where nothing is listed, a `step` whose
`now` and `rnd` are free values (log entries 1 to 3). -/
def State.takeInput (s : State) : HostOp × State :=
  match s.inputs with
  | op :: rest => (op, { s with inputs := rest })
  | [] => (.step (Config.hostNow s.inputIndex) (Config.hostRnd s.inputIndex), { s with inputIndex := s.inputIndex + 1 })

/-- One transition of the block: one host operation (00_scope R3, 20_memory R72). -/
def State.transition (s : State) : Host.Outcome State Fault Refusal :=
  s.takeInput.2.perform s.takeInput.1

/-- Where an instruction is put so that the next `step` fetches it: at pc, or at the program base where pc can fetch nothing
(20_memory R63). -/
def State.placeAt (s : State) : Word :=
  if Config.memSize ≤ s.pc.toNat + 1 then BitVec.ofNat 16 Config.progBase else s.pc

/-- The state in which the very next transition is a `step` that fetches `op`. -/
def State.placeInstruction (s : State) (op : Word) : State :=
  { s with
    mem := s.mem.writeBytes s.placeAt.toNat [wordHi op, wordLo op]
    pc := s.placeAt
    awaitingKey := false
    session := .loaded
    inputs := [] }

end Sys2Proof.Machine
end

