-- ==== Sys2Proof/Machine/Step.lean ====
section
/-! DEFINITION. The step of the machine behind Host/Core.lean, and placing one instruction where it fetches. -/

namespace Sys2Proof.Machine

/-- One transition: the next host operation (00_scope R3, 60_exceptions R319), `step(now, rnd)` where none is listed. -/
def step (s : State) : Host.Outcome State Fault Refusal := s.transition

/-- `s` with the instruction whose bits are `w` (numbered as spec/opcode_table.json numbers them, `nbits` of them) placed where
`step` fetches its next instruction; it stands for the host's `load` (log entry 6). -/
def State.withFetchWord (s : State) (nbits w : Nat) : State :=
  s.placeInstruction (BitVec.ofNat 16 (w % 2 ^ nbits))

end Sys2Proof.Machine
end

