-- ==== Sys2Proof/Safety.lean ====
section
/-! DEFINITION. What counts as a safe run, in the spec's own terms: no error recorded (60_exceptions R308), the clean launch
(70_reset_and_hazards R356), the host's contract (60_exceptions R320) and the invariants of 10_state R45. -/

namespace Sys2Proof.Machine

/-- "no error recorded", the premise every claim about a run takes (60_exceptions R308). -/
def State.NoError (s : State) : Prop := s.error = none

/-- The number of `load` operations in a list of host operations. -/
def loadsIn : List HostOp → Nat
  | [] => 0
  | .load _ :: ops => loadsIn ops + 1
  | .step _ _ :: ops => loadsIn ops
  | .keyDown _ :: ops => loadsIn ops
  | .keyUp _ :: ops => loadsIn ops
  | .readFramebuffer :: ops => loadsIn ops
  | .soundLevel :: ops => loadsIn ops
  | .isAwaitingKey :: ops => loadsIn ops

/-- The host's duty to "call `load` once" (70_reset_and_hazards R355, 60_exceptions R320, decision D25): at most one load is still to
come, and none once `load` was called. A host that breaks it meets the refusal `secondLoad`. -/
def State.HostContract (s : State) : Prop :=
  loadsIn s.inputs + (if s.session = .notLoaded then 0 else 1) ≤ 1

/-- The word at `pc` is an FX0A and can be fetched (10_state R45). -/
def State.AtKeyWait (s : State) : Prop :=
  s.pc.toNat + 1 ≤ 0xFFF ∧
    ∃ op, s.mem.fetch16 s.pc.toNat = .ok op ∧ opFamily op = 0xF#4 ∧ opNN op = 0x0A#8

/-- 10_state R45 with what carries it: memory in canonical form, the bound on pc and on the return addresses that RET will pop
(R37: "at most 0x1000"), the key-wait at pc while suspended, that only a loaded machine is suspended, and the host's contract,
without which a loaded machine could be refused a load. The other clauses of R45 hold by the fields' types. -/
structure State.Inv (s : State) : Prop where
  memWf : s.mem.wf
  pcBound : s.pc.toNat ≤ 0x10FE
  stackBound : ∀ j : Fin 16, j.val < s.sp.val → s.stack[j].toNat ≤ 0x1000
  keyWait : s.awaitingKey = true → s.AtKeyWait
  suspendedInSession : s.awaitingKey = true → s.session = .loaded
  contract : s.HostContract

/-- What the list of 70_reset_and_hazards R356 names, and no more: the result of a load with no error from some creation, with V, I,
the stack slots, the timers, the pixels, the keyboard and the suspend flag at zero and no error recorded. -/
structure State.ListedLaunch (s : State) (bytes : List Byte) : Prop where
  loaded : ∃ l : Launch, s = (State.created l).load bytes
  fits : bytes.length ≤ Config.maxProg
  v : ∀ x : Nibble, s.getV x = 0#8
  i : s.i = 0#16
  stack : ∀ j : Fin 16, s.stack[j] = 0#16
  delayTimer : s.delayTimer = 0#8
  soundTimer : s.soundTimer = 0#8
  framebuffer : ∀ r c, s.framebuffer.pixel r c = false
  keyboard : s.keyboard = 0#16
  awaitingKey : s.awaitingKey = false
  noError : s.NoError

/-- `CleanLaunch(s, bytes)` (70_reset_and_hazards R356): a clean launch fixes every field that the Loader leaves unspecified to zero
(10_state R46, decision D17), so `last_tick` beside those of R356's own list. DESIGN CHOICE (log entry 17): R356's list alone,
which omits `last_tick`, is `State.ListedLaunch`. -/
structure State.CleanLaunch (s : State) (bytes : List Byte) : Prop extends s.ListedLaunch bytes where
  lastTick : s.lastTick = 0

/-- The sprite of DXYN at screen row `r`, column `c`: a 1 bit of a drawn row, on the screen (44_display R262 to R264). Row
`r - oy` of the sprite is `memory[I + (r - oy)]`, and bit `7 - (c - ox)` of it goes to column `c`. -/
def State.spriteBit (s : State) (x y n : Nibble) (r c : Nat) : Bool :=
  decide ((s.getV y).toNat ≤ r ∧ r < (s.getV y).toNat + n.toNat ∧ r < 32 ∧
    (s.getV x).toNat ≤ c ∧ c < (s.getV x).toNat + 8 ∧ c < 64) &&
    (s.mem.read (s.i.toNat + (r - (s.getV y).toNat))).getLsbD (7 - (c - (s.getV x).toNat))

end Sys2Proof.Machine
end

