-- ==== Sys2Proof/Certificates/Slice0/Obligations.lean ====
section
/-! DEFINITION. The statements for the provers, from the numbered rules of spec/. A frame is written `t = { s with f := t.f, ... }`:
every field of the state but the named ones (registers, I, stack, sp, pc, timers, keyboard, framebuffer, memory byte for byte, the
error record, ...) is what it was. -/

open Sys2Proof Sys2Proof.Machine

/-! ## Encoding (30_encoding) -/

/-- One word or more of each family, written out from 30_encoding section 4, decodes to what it stands for. The opcode values are
the spec's decision D2 (log entry 14). -/
def Obligations.KnownWordsDecode : Prop :=
  decode 0x00E0#16 = .ok .cls ∧ decode 0x00EE#16 = .ok .ret ∧ decode 0x0123#16 = .ok (.sys 0x123#12) ∧
  decode 0x1ABC#16 = .ok (.jp 0xABC#12) ∧ decode 0x2210#16 = .ok (.call 0x210#12) ∧
  decode 0x330A#16 = .ok (.seImm 0x3#4 0x0A#8) ∧ decode 0x430A#16 = .ok (.sneImm 0x3#4 0x0A#8) ∧
  decode 0x5120#16 = .ok (.seReg 0x1#4 0x2#4) ∧ decode 0x6A7B#16 = .ok (.ldImm 0xA#4 0x7B#8) ∧
  decode 0x7F01#16 = .ok (.addImm 0xF#4 0x01#8) ∧ decode 0x8014#16 = .ok (.addReg 0x0#4 0x1#4) ∧
  decode 0x8F1E#16 = .ok (.shl 0xF#4 0x1#4) ∧ decode 0x9120#16 = .ok (.sneReg 0x1#4 0x2#4) ∧
  decode 0xA300#16 = .ok (.ldI 0x300#12) ∧ decode 0xB300#16 = .ok (.jpV0 0x300#12) ∧
  decode 0xC00F#16 = .ok (.rnd 0x0#4 0x0F#8) ∧ decode 0xD125#16 = .ok (.drw 0x1#4 0x2#4 0x5#4) ∧
  decode 0xE19E#16 = .ok (.skp 0x1#4) ∧ decode 0xE1A1#16 = .ok (.sknp 0x1#4) ∧
  decode 0xF10A#16 = .ok (.ldVxK 0x1#4) ∧ decode 0xFA33#16 = .ok (.ldBVx 0xA#4) ∧
  decode 0xF265#16 = .ok (.ldRegs 0x2#4)

/-- Decoding the word of every well-formed instruction gives it back, with every operand at every value. -/
def Obligations.DecodeOfEncode : Prop :=
  ∀ i : Instr, i.WellFormed = true → decode (encode i) = .ok i

/-- Each word has one meaning: an instruction read from a word is well formed and encodes to that very word (30_encoding section
5, "every 16-bit value either decodes to exactly one row"). -/
def Obligations.EncodeOfDecode : Prop :=
  ∀ (op : Word) (i : Instr), decode op = .ok i → i.WellFormed = true ∧ encode i = op

/-- The unsupported patterns are exactly the listed ones (30_encoding section 5, decisions D3 and D4). 0NNN decodes to SYS, whose
execution raises. -/
def Obligations.UnsupportedPatternsExactly : Prop :=
  ∀ op : Word,
    ((opFamily op = 0x5#4 ∧ opN op ≠ 0x0#4) ∨
     (opFamily op = 0x8#4 ∧ opN op ∈ [0x8#4, 0x9#4, 0xA#4, 0xB#4, 0xC#4, 0xD#4, 0xF#4]) ∨
     (opFamily op = 0x9#4 ∧ opN op ≠ 0x0#4) ∨
     (opFamily op = 0xE#4 ∧ opNN op ∉ [0x9E#8, 0xA1#8]) ∨
     (opFamily op = 0xF#4 ∧
       opNN op ∉ [0x07#8, 0x0A#8, 0x15#8, 0x18#8, 0x1E#8, 0x29#8, 0x33#8, 0x55#8, 0x65#8])) ↔
    decode op = .error (.unsupportedOpcode op)

/-! ## The step cycle (30_encoding R95, 60_exceptions) -/

/-- Fetch: two bytes, the lower address in bits 15..8, at any alignment; MemoryOutOfRange of pc + 1 where that is above 0xFFF
(20_memory section 1; the bound is decision D20, log entry 7). -/
def Obligations.FetchIsBigEndianAndBounded : Prop :=
  ∀ (m : Memory) (a : Nat),
    (a + 1 ≤ 0xFFF → ∃ op, m.fetch16 a = .ok op ∧ op.toNat = (m.read a).toNat * 256 + (m.read (a + 1)).toNat) ∧
    (0xFFF < a + 1 → m.fetch16 a = .error (a + 1))

/-- A step runs the decoded instruction: where the next host operation is `step(now, rnd)`, a program is loaded, nothing is awaited,
and the word at pc decodes to `i`, the step is `exec i` at the state after the timer gate, pc past the two bytes and `rnd` at hand
(30_encoding section 1; the gate's place is decision D15). -/
def Obligations.StepRunsDecodedInstruction : Prop :=
  ∀ (s s1 : State) (now : Rat) (r : Byte) (op : Word) (i : Instr),
    s.takeInput = (.step now r, s1) → s1.session = .loaded → s1.awaitingKey = false →
    s1.mem.fetch16 s1.pc.toNat = .ok op → decode op = .ok i →
    step s = exec i (({ s1 with reply := .ok, pc := s1.pc + 2, rnd := r } : State).timerGate now)

/-- `step` while suspended raises InvalidState and changes nothing else: the timer gate does not run (60_exceptions section 1;
decision D18; the error record is the model's form of an error, log entry 4). -/
def Obligations.SuspendedStepChangesNothing : Prop :=
  ∀ (s : State) (now : Rat) (r : Byte), s.session = .loaded → s.awaitingKey = true →
    s.perform (.step now r) = .next { s with error := some (s.error.getD .invalidState), reply := .error .invalidState }

/-- A fetch past the end raises MemoryOutOfRange with pc at pc_f; an unsupported pattern raises UnsupportedOpcode with pc at pc_f + 2.
Both keep the gate's effect and commit nothing else (60_exceptions section 2, decisions D18 and D20; log entry 4). -/
def Obligations.FetchAndDecodeErrors : Prop :=
  ∀ (s : State) (now : Rat) (r : Byte), s.session = .loaded → s.awaitingKey = false →
    (0xFFF < s.pc.toNat + 1 →
      s.perform (.step now r) = .next { s.timerGate now with
        error := some (s.error.getD (.memoryOutOfRange (s.pc.toNat + 1) none s.pc))
        reply := .error (.memoryOutOfRange (s.pc.toNat + 1) none s.pc) }) ∧
    (∀ op e, s.mem.fetch16 s.pc.toNat = .ok op → decode op = .error e →
      s.perform (.step now r) = .next { s.timerGate now with
        pc := s.pc + 2
        rnd := r
        error := some (s.error.getD (.unsupportedOpcode op s.pc))
        reply := .error (.unsupportedOpcode op s.pc) })

/-- The first error is recorded and no later step clears it; an error handed back is always recorded, and nothing is recorded
without one (60_exceptions section 2; the record is log entry 4). -/
def Obligations.FirstErrorIsSticky : Prop :=
  ∀ s t : State, step s = .next t →
    (∀ e, s.error = some e → t.error = some e) ∧
    (∀ e, t.reply = .error e → t.error = some (s.error.getD e)) ∧
    ((∀ e, t.reply ≠ .error e) → t.error = s.error)

/-- An instruction that raises an error commits nothing: only the error record and what is handed back differ (60_exceptions section 2,
decision D18; log entry 4). -/
def Obligations.InstructionErrorsCommitNothing : Prop :=
  ∀ (i : Instr) (s t : State) (e : ErrorInfo), s.reply = .ok → exec i s = .next t → t.reply = .error e →
    t = { s with error := some (s.error.getD e), reply := .error e }

/-! ## Invariants (10_state R45) -/

/-- Every transition keeps the invariants of 10_state section 10, with what carries them in the model: the canonical form of memory
(log entry 13) and the host's contract (log entry 9). -/
def Obligations.StepKeepsInvariant : Prop :=
  ∀ s t : State, s.Inv → step s = .next t → t.Inv

/-- The reset state meets them. The clause on the host's contract is the model's own (log entry 9), and holds there by the model's choice
of a session already loaded (log entry 6) and of an empty list of operations to come (log entry 1). The canonical form of memory is
the model's own as well (log entry 13). -/
def Obligations.ResetMeetsInvariant : Prop := State.reset.Inv

/-- So does every machine that the host creates, with whatever launch values and whatever operations to come but a second load, and
loads (70_reset_and_hazards sections 1 and 2; the operations to come are the model's own, log entry 1). -/
def Obligations.LoadedMachineMeetsInvariant : Prop :=
  ∀ (l : Launch) (bytes : List Byte), bytes.length ≤ 3584 → loadsIn l.inputs = 0 → ((State.created l).load bytes).Inv

/-- Memory stays in canonical form under every transition, from every state. The canonical form is the model's own representation of
the 4096 bytes (log entry 13, DEDUCED), given by no rule of the spec: it makes equal memories equal data. -/
def Obligations.StepKeepsMemoryCanonical : Prop :=
  ∀ s t : State, s.mem.wf → step s = .next t → t.mem.wf

/-- Under the invariants a loaded machine never stops: no key-down finds an unfetchable key-wait, and no step is refused (43_timers_keys
section 3: "the fetch is in range"). -/
def Obligations.LoadedMachineNeverStops : Prop :=
  ∀ s : State, s.Inv → s.session = .loaded → ∃ t, step s = .next t

/-! ## Whole-machine rules over all instructions -/

/-- Only FX33 and FX55 write memory, only 00E0 and DXYN the framebuffer (20_memory section 4, 44_display section 2). -/
def Obligations.MemoryAndScreenHaveTheirWriters : Prop :=
  ∀ (i : Instr) (s t : State), exec i s = .next t →
    ((∀ x, i ≠ .ldBVx x) → (∀ x, i ≠ .stRegs x) → ∀ a, t.mem.read a = s.mem.read a) ∧
    (i ≠ .cls → (∀ x y n, i ≠ .drw x y n) → ∀ r c, t.framebuffer.pixel r c = s.framebuffer.pixel r c)

/-- No instruction writes the keyboard or the timer gate's timestamp, nor the model's own inputs (10_state sections 7 and 9). -/
def Obligations.InstructionsLeaveHostStateAlone : Prop :=
  ∀ (i : Instr) (s t : State), exec i s = .next t →
    t.keyboard = s.keyboard ∧ t.lastTick = s.lastTick ∧ t.session = s.session ∧ t.rnd = s.rnd ∧ t.inputs = s.inputs ∧
    t.inputIndex = s.inputIndex

/-- Only CALL writes the stack and only CALL and RET move sp; only FX15 and FX18 write the timers; only ANNN, FX1E and FX29 write I
(FX55 and FX65 leave it: decision D9); only FX0A sets awaiting_key (10_state sections 3, 5, 6 and 9). -/
def Obligations.ControlStateHasItsWriters : Prop :=
  ∀ (i : Instr) (s t : State), exec i s = .next t →
    ((∀ a, i ≠ .call a) → t.stack = s.stack) ∧
    ((∀ a, i ≠ .call a) → i ≠ .ret → t.sp = s.sp) ∧
    ((∀ x, i ≠ .ldDTVx x) → t.delayTimer = s.delayTimer) ∧
    ((∀ x, i ≠ .ldSTVx x) → t.soundTimer = s.soundTimer) ∧
    ((∀ a, i ≠ .ldI a) → (∀ x, i ≠ .addIVx x) → (∀ x, i ≠ .ldFVx x) → t.i = s.i) ∧
    ((∀ x, i ≠ .ldVxK x) → t.awaitingKey = s.awaitingKey)

/-- The wait for a key ends only by a key-down (60_exceptions section 7). -/
def Obligations.WaitEndsOnlyByKeyDown : Prop :=
  ∀ s t : State, step s = .next t → s.awaitingKey = true → t.awaitingKey = false → ∃ k, s.takeInput.1 = .keyDown k

/-- While a key is awaited no operation of the host moves a timer or the timestamp (60_exceptions section 4). -/
def Obligations.TimersFrozenWhileSuspended : Prop :=
  ∀ s t : State, step s = .next t → s.awaitingKey = true →
    t.delayTimer = s.delayTimer ∧ t.soundTimer = s.soundTimer ∧ t.lastTick = s.lastTick ∧ t.beep = s.beep

/-! ## Timers (60_exceptions section 4) -/

/-- The timer gate: where 1/60 s or more has passed both timers fall by 1, not below 0, and the timestamp becomes `now`; otherwise
nothing changes. -/
def Obligations.TimerGateDecrementsBoth : Prop :=
  ∀ (s : State) (now : Rat),
    (1 ≤ (now - s.lastTick) * 60 →
      (s.timerGate now).delayTimer.toNat = s.delayTimer.toNat - 1 ∧
      (s.timerGate now).soundTimer.toNat = s.soundTimer.toNat - 1 ∧
      (s.timerGate now).lastTick = now ∧
      s.timerGate now = { s with
        delayTimer := (s.timerGate now).delayTimer, soundTimer := (s.timerGate now).soundTimer, lastTick := now }) ∧
    ((now - s.lastTick) * 60 < 1 → s.timerGate now = s)

/-- Two decrements are at least 1/60 s apart: after the gate ran at `now`, it opens at `later` only if 1/60 s has passed since then. -/
def Obligations.DecrementsAtLeastASixtiethApart : Prop :=
  ∀ (s : State) (now later : Rat), 1 ≤ (now - s.lastTick) * 60 →
    ((s.timerGate now).timerGate later).lastTick ≠ now → 1 / 60 ≤ later - now

/-- A `step` lowers each timer by at most 1 and never raises it, whatever `now` is, unless the instruction it runs sets that timer
(60_exceptions section 4; the first clause of 10_state section 6). -/
def Obligations.TimersFallAtMostOnePerStep : Prop :=
  ∀ (s t : State) (now : Rat) (r : Byte), s.perform (.step now r) = .next t →
    ((∀ op x, s.mem.fetch16 s.pc.toNat = .ok op → decode op ≠ .ok (.ldDTVx x)) →
      t.delayTimer.toNat ≤ s.delayTimer.toNat ∧ s.delayTimer.toNat ≤ t.delayTimer.toNat + 1) ∧
    ((∀ op x, s.mem.fetch16 s.pc.toNat = .ok op → decode op ≠ .ok (.ldSTVx x)) →
      t.soundTimer.toNat ≤ s.soundTimer.toNat ∧ s.soundTimer.toNat ≤ t.soundTimer.toNat + 1)

/-! ## Control flow (40_flow): each says what the instruction does and what it leaves alone -/

/-- R133. JP nnn. -/
def Obligations.JumpIsAbsolute : Prop :=
  ∀ (nnn : Addr12) (s : State), decode (0x1#4 ++ nnn) = .ok (.jp nnn) ∧
    ∃ t, exec (.jp nnn) s = .next t ∧ t.pc.toNat = nnn.toNat ∧ t = { s with pc := t.pc }

/-- R135, R136. SE Vx, nn and SNE Vx, nn. -/
def Obligations.SkipsOnImmediate : Prop :=
  ∀ (x : Nibble) (nn : Byte) (s : State),
    decode (0x3#4 ++ (x ++ nn)) = .ok (.seImm x nn) ∧ decode (0x4#4 ++ (x ++ nn)) = .ok (.sneImm x nn) ∧
    exec (.seImm x nn) s = .next { s with pc := if s.getV x = nn then s.pc + 2 else s.pc } ∧
    exec (.sneImm x nn) s = .next { s with pc := if s.getV x ≠ nn then s.pc + 2 else s.pc }

/-- SE Vx, Vy and SNE Vx, Vy (40_flow section 2); a low nibble other than 0 is unsupported, which is the spec's own choice (30_encoding
section 5, decision D4, log entry 7). -/
def Obligations.SkipsOnRegister : Prop :=
  ∀ (x y : Nibble) (s : State),
    decode (0x5#4 ++ (x ++ (y ++ 0x0#4))) = .ok (.seReg x y) ∧ decode (0x9#4 ++ (x ++ (y ++ 0x0#4))) = .ok (.sneReg x y) ∧
    (∀ n : Nibble, n ≠ 0x0#4 →
      decode (0x5#4 ++ (x ++ (y ++ n))) = .error (.unsupportedOpcode (0x5#4 ++ (x ++ (y ++ n)))) ∧
      decode (0x9#4 ++ (x ++ (y ++ n))) = .error (.unsupportedOpcode (0x9#4 ++ (x ++ (y ++ n))))) ∧
    exec (.seReg x y) s = .next { s with pc := if s.getV x = s.getV y then s.pc + 2 else s.pc } ∧
    exec (.sneReg x y) s = .next { s with pc := if s.getV x ≠ s.getV y then s.pc + 2 else s.pc }

/-- CALL with a free slot: the post-increment pc goes to `stack[sp]`, sp rises by 1, pc is nnn (40_flow section 2). -/
def Obligations.CallPushesReturnAddress : Prop :=
  ∀ (nnn : Addr12) (s : State), s.sp.val < 16 →
    ∃ t, exec (.call nnn) s = .next t ∧ t.pc.toNat = nnn.toNat ∧ t.sp.val = s.sp.val + 1 ∧
      (∀ j : Fin 16, t.stack[j] = if j.val = s.sp.val then s.pc else s.stack[j]) ∧
      t = { s with pc := t.pc, sp := t.sp, stack := t.stack }

/-- RET with a return address: sp falls by 1 and pc is the slot it then names; the slot keeps its value (40_flow section 2; decision
D28). -/
def Obligations.RetPopsReturnAddress : Prop :=
  ∀ (s : State) (j : Fin 16), s.sp.val = j.val + 1 →
    ∃ t, exec .ret s = .next t ∧ t.pc = s.stack[j] ∧ t.sp.val = j.val ∧ t = { s with pc := t.pc, sp := t.sp }

/-- CALL with 16 slots in use raises StackOverflow, RET with none raises StackUnderflow, with the opcode and pc_f; nothing else changes
(60_exceptions sections 1 and 2, decision D18; log entry 4). -/
def Obligations.StackBoundsRaise : Prop :=
  ∀ (nnn : Addr12) (s : State),
    (s.sp.val = 16 → exec (.call nnn) s = .next { s with
      error := some (s.error.getD (.stackOverflow (0x2#4 ++ nnn) (s.pc - 2)))
      reply := .error (.stackOverflow (0x2#4 ++ nnn) (s.pc - 2)) }) ∧
    (s.sp.val = 0 → exec .ret s = .next { s with
      error := some (s.error.getD (.stackUnderflow 0x00EE#16 (s.pc - 2)))
      reply := .error (.stackUnderflow 0x00EE#16 (s.pc - 2)) })

/-- CALL and later RET, with the stack as CALL left it: pc is back at the instruction after the CALL and sp as before it
(95_test_vectors S9). -/
def Obligations.CallThenReturnRestores : Prop :=
  ∀ (nnn : Addr12) (s t u : State), s.sp.val < 16 → exec (.call nnn) s = .next t → u.stack = t.stack → u.sp = t.sp →
    ∃ w, exec .ret u = .next w ∧ w.pc = s.pc ∧ w.sp = s.sp ∧ w = { u with pc := w.pc, sp := w.sp }

/-- JP V0, nnn: nnn plus V0 with no wrap (40_flow section 2; V0 is decision D12, log entry 7). -/
def Obligations.JumpAddsOffset : Prop :=
  ∀ (nnn : Addr12) (s : State),
    ∃ t, exec (.jpV0 nnn) s = .next t ∧ t.pc.toNat = nnn.toNat + (s.getV 0x0#4).toNat ∧ t = { s with pc := t.pc }

/-- SYS raises UnsupportedOpcode of its word, under the default SYS_POLICY (40_flow section 2, decision D3; log entries 4 and 7). Under
`nop` it does nothing. -/
def Obligations.SysRaisesUnsupported : Prop :=
  ∀ (nnn : Addr12) (s : State),
    exec (.sys nnn) s = .next { s with
      error := some (s.error.getD (.unsupportedOpcode (0x0#4 ++ nnn) (s.pc - 2)))
      reply := .error (.unsupportedOpcode (0x0#4 ++ nnn) (s.pc - 2)) } ∧
    s.sysCall .nop nnn = s

/-! ## Registers and arithmetic (41_alu) -/

/-- R161, R163. LD Vx, nn and LD Vx, Vy. -/
def Obligations.LoadsWriteOneRegister : Prop :=
  ∀ (x y : Nibble) (nn : Byte) (s : State),
    decode (0x6#4 ++ (x ++ nn)) = .ok (.ldImm x nn) ∧ decode (0x8#4 ++ (x ++ (y ++ 0x0#4))) = .ok (.ldReg x y) ∧
    (∃ t, exec (.ldImm x nn) s = .next t ∧ t.getV x = nn ∧ (∀ z, z ≠ x → t.getV z = s.getV z) ∧ t = { s with v := t.v }) ∧
    (∃ t, exec (.ldReg x y) s = .next t ∧ t.getV x = s.getV y ∧ (∀ z, z ≠ x → t.getV z = s.getV z) ∧ t = { s with v := t.v })

/-- ADD Vx, nn wraps and sets no flag: with x other than 0xF, VF is unchanged (41_alu section 2; decision D29). -/
def Obligations.AddImmediateSetsNoFlag : Prop :=
  ∀ (x : Nibble) (nn : Byte) (s : State),
    ∃ t, exec (.addImm x nn) s = .next t ∧ (t.getV x).toNat = ((s.getV x).toNat + nn.toNat) % 256 ∧
      (∀ z, z ≠ x → t.getV z = s.getV z) ∧ t = { s with v := t.v }

/-- OR, AND and XOR, bit by bit; VF is no flag of theirs under the default (41_alu section 3; decision D7). -/
def Obligations.LogicIsBitwise : Prop :=
  ∀ (x y : Nibble) (s : State),
    (∃ t, exec (.orReg x y) s = .next t ∧ (∀ j, (t.getV x).getLsbD j = ((s.getV x).getLsbD j || (s.getV y).getLsbD j)) ∧
      (∀ z, z ≠ x → t.getV z = s.getV z) ∧ t = { s with v := t.v }) ∧
    (∃ t, exec (.andReg x y) s = .next t ∧ (∀ j, (t.getV x).getLsbD j = ((s.getV x).getLsbD j && (s.getV y).getLsbD j)) ∧
      (∀ z, z ≠ x → t.getV z = s.getV z) ∧ t = { s with v := t.v }) ∧
    (∃ t, exec (.xorReg x y) s = .next t ∧ (∀ j, (t.getV x).getLsbD j = ((s.getV x).getLsbD j ^^ (s.getV y).getLsbD j)) ∧
      (∀ z, z ≠ x → t.getV z = s.getV z) ∧ t = { s with v := t.v })

/-- ADD Vx, Vy: the sum mod 256, then VF the carry (41_alu section 3), which is what stays when x = 0xF: the order of the two writes is
decision D6 (log entry 7). -/
def Obligations.AddSetsCarry : Prop :=
  ∀ (x y : Nibble) (s : State), decode (0x8#4 ++ (x ++ (y ++ 0x4#4))) = .ok (.addReg x y) ∧
    ∃ t, exec (.addReg x y) s = .next t ∧
      t.getV 0xF#4 = (if 255 < (s.getV x).toNat + (s.getV y).toNat then 1#8 else 0#8) ∧
      (x ≠ 0xF#4 → (t.getV x).toNat = ((s.getV x).toNat + (s.getV y).toNat) % 256) ∧
      (∀ z, z ≠ x → z ≠ 0xF#4 → t.getV z = s.getV z) ∧ t = { s with v := t.v }

/-- SUB and SUBN: the difference mod 256, then VF = 1 iff the minuend is strictly greater (41_alu section 3), which is what stays when
x = 0xF: the order of the two writes is decision D6 (log entry 7). -/
def Obligations.SubtractsSetStrictFlag : Prop :=
  ∀ (x y : Nibble) (s : State),
    decode (0x8#4 ++ (x ++ (y ++ 0x5#4))) = .ok (.sub x y) ∧ decode (0x8#4 ++ (x ++ (y ++ 0x7#4))) = .ok (.subn x y) ∧
    (∃ t, exec (.sub x y) s = .next t ∧
      t.getV 0xF#4 = (if (s.getV y).toNat < (s.getV x).toNat then 1#8 else 0#8) ∧
      (x ≠ 0xF#4 → (t.getV x).toNat = ((s.getV x).toNat + 256 - (s.getV y).toNat) % 256) ∧
      (∀ z, z ≠ x → z ≠ 0xF#4 → t.getV z = s.getV z) ∧ t = { s with v := t.v }) ∧
    (∃ t, exec (.subn x y) s = .next t ∧
      t.getV 0xF#4 = (if (s.getV x).toNat < (s.getV y).toNat then 1#8 else 0#8) ∧
      (x ≠ 0xF#4 → (t.getV x).toNat = ((s.getV y).toNat + 256 - (s.getV x).toNat) % 256) ∧
      (∀ z, z ≠ x → z ≠ 0xF#4 → t.getV z = s.getV z) ∧ t = { s with v := t.v })

/-- SHR and SHL shift Vx by one and leave the bit shifted out in VF, last; Vy is not read (41_alu section 3; SHIFT_SOURCE is decision
D5 and the order of the writes D6, log entry 7). -/
def Obligations.ShiftsKeepTheLostBit : Prop :=
  ∀ (x y : Nibble) (s : State),
    (∃ t, exec (.shr x y) s = .next t ∧
      (t.getV 0xF#4).toNat = (s.getV x).toNat % 2 ∧
      (x ≠ 0xF#4 → (t.getV x).toNat = (s.getV x).toNat / 2) ∧
      (∀ z, z ≠ x → z ≠ 0xF#4 → t.getV z = s.getV z) ∧ t = { s with v := t.v }) ∧
    (∃ t, exec (.shl x y) s = .next t ∧
      (t.getV 0xF#4).toNat = (s.getV x).toNat / 128 ∧
      (x ≠ 0xF#4 → (t.getV x).toNat = (s.getV x).toNat * 2 % 256) ∧
      (∀ z, z ≠ x → z ≠ 0xF#4 → t.getV z = s.getV z) ∧ t = { s with v := t.v })

/-- RND writes the free byte `rnd`, whatever it is, masked by nn, and nothing else; in a step that byte is the one the host supplied
with this `step(now, rnd)` (41_alu section 4, decision D13; the free value is log entry 3). -/
def Obligations.RandomByteIsMasked : Prop :=
  ∀ (x : Nibble) (nn r : Byte) (s : State),
    (∃ t, exec (.rnd x nn) { s with rnd := r } = .next t ∧
      (∀ j, (t.getV x).getLsbD j = (r.getLsbD j && nn.getLsbD j)) ∧
      (∀ z, z ≠ x → t.getV z = s.getV z) ∧ t = { s with rnd := r, v := t.v }) ∧
    (∀ (now : Rat) (op : Word), s.session = .loaded → s.awaitingKey = false →
      s.mem.fetch16 s.pc.toNat = .ok op → decode op = .ok (.rnd x nn) →
      ∃ t, s.perform (.step now r) = .next t ∧ (∀ j, (t.getV x).getLsbD j = (r.getLsbD j && nn.getLsbD j)) ∧
        (∀ z, z ≠ x → t.getV z = s.getV z) ∧
        t = { s.timerGate now with v := t.v, pc := s.pc + 2, rnd := r, reply := .ok })

/-! ## Index register and memory (42_index_memory) -/

/-- R201. LD I, nnn. -/
def Obligations.IndexLoadsAddress : Prop :=
  ∀ (nnn : Addr12) (s : State), decode (0xA#4 ++ nnn) = .ok (.ldI nnn) ∧
    ∃ t, exec (.ldI nnn) s = .next t ∧ t.i.toNat = nnn.toNat ∧ t = { s with i := t.i }

/-- ADD I, Vx wraps at 2^16 and sets no flag; LD F, Vx names the glyph of Vx's low nibble (42_index_memory section 2; decisions D8
and D10, log entry 7). -/
def Obligations.IndexAddsAndFindsGlyphs : Prop :=
  ∀ (x : Nibble) (s : State),
    (∃ t, exec (.addIVx x) s = .next t ∧ t.i.toNat = (s.i.toNat + (s.getV x).toNat) % 65536 ∧ t = { s with i := t.i }) ∧
    (∃ t, exec (.ldFVx x) s = .next t ∧ t.i.toNat = 5 * ((s.getV x).toNat % 16) ∧ t = { s with i := t.i })

/-- LD B, Vx stores the three decimal digits at I, I+1 and I+2, hundreds first, and no other byte (42_index_memory section 2; the order
is decision D11, log entry 7). -/
def Obligations.BcdStoresThreeDigits : Prop :=
  ∀ (x : Nibble) (s : State), s.i.toNat + 2 ≤ 0xFFF →
    ∃ t, exec (.ldBVx x) s = .next t ∧
      (∃ h d u : Nat, h ≤ 9 ∧ d ≤ 9 ∧ u ≤ 9 ∧ (s.getV x).toNat = 100 * h + 10 * d + u ∧
        (t.mem.read s.i.toNat).toNat = h ∧ (t.mem.read (s.i.toNat + 1)).toNat = d ∧ (t.mem.read (s.i.toNat + 2)).toNat = u) ∧
      (∀ a, a < s.i.toNat ∨ s.i.toNat + 2 < a → t.mem.read a = s.mem.read a) ∧
      t = { s with mem := t.mem }

/-- LD [I], Vx stores V0 to Vx at I to I+x and no other byte; I is unchanged (42_index_memory section 2; decision D9). -/
def Obligations.BlockStoreWritesRegisters : Prop :=
  ∀ (x : Nibble) (s : State), s.i.toNat + x.toNat ≤ 0xFFF →
    ∃ t, exec (.stRegs x) s = .next t ∧
      (∀ k : Nibble, k.toNat ≤ x.toNat → t.mem.read (s.i.toNat + k.toNat) = s.getV k) ∧
      (∀ a, a < s.i.toNat ∨ s.i.toNat + x.toNat < a → t.mem.read a = s.mem.read a) ∧
      t = { s with mem := t.mem }

/-- LD Vx, [I] loads V0 to Vx from I to I+x; the registers above x and I are unchanged (42_index_memory section 2; decision D9). -/
def Obligations.BlockLoadReadsRegisters : Prop :=
  ∀ (x : Nibble) (s : State), s.i.toNat + x.toNat ≤ 0xFFF →
    ∃ t, exec (.ldRegs x) s = .next t ∧
      (∀ k : Nibble, k.toNat ≤ x.toNat → t.getV k = s.mem.read (s.i.toNat + k.toNat)) ∧
      (∀ k : Nibble, x.toNat < k.toNat → t.getV k = s.getV k) ∧
      t = { s with v := t.v }

/-- A block that would reach past 0xFFF raises MemoryOutOfRange of its highest address, with nothing read, written or drawn (42_index_memory
section 1, 44_display section 1; decisions D18 and D24, log entry 4). -/
def Obligations.BlocksPastTheEndRaise : Prop :=
  ∀ (x y n : Nibble) (s : State),
    let raised := fun (hi : Nat) (op : Word) => ({ s with
      error := some (s.error.getD (.memoryOutOfRange hi (some op) (s.pc - 2)))
      reply := .error (.memoryOutOfRange hi (some op) (s.pc - 2)) } : State)
    (0xFFF < s.i.toNat + 2 → exec (.ldBVx x) s = .next (raised (s.i.toNat + 2) (0xF#4 ++ (x ++ 0x33#8)))) ∧
    (0xFFF < s.i.toNat + x.toNat →
      exec (.stRegs x) s = .next (raised (s.i.toNat + x.toNat) (0xF#4 ++ (x ++ 0x55#8))) ∧
      exec (.ldRegs x) s = .next (raised (s.i.toNat + x.toNat) (0xF#4 ++ (x ++ 0x65#8)))) ∧
    (1 ≤ n.toNat → 0xFFF < s.i.toNat + n.toNat - 1 →
      exec (.drw x y n) s = .next (raised (s.i.toNat + n.toNat - 1) (0xD#4 ++ (x ++ (y ++ n)))))

/-- Storing a block of registers and loading it back from the same memory and I restores them, whatever the registers were meanwhile. -/
def Obligations.StoredBlockLoadsBack : Prop :=
  ∀ (x : Nibble) (s t u : State), s.i.toNat + x.toNat ≤ 0xFFF → exec (.stRegs x) s = .next t → u.mem = t.mem → u.i = t.i →
    ∃ w, exec (.ldRegs x) u = .next w ∧ (∀ k : Nibble, k.toNat ≤ x.toNat → w.getV k = s.getV k) ∧
      (∀ k : Nibble, x.toNat < k.toNat → w.getV k = u.getV k)

/-- A store is seen by the next fetch of the written bytes, with no fence (20_memory section 6). -/
def Obligations.StoredWordIsFetched : Prop :=
  ∀ (x k l : Nibble) (s t : State), s.i.toNat + x.toNat ≤ 0xFFF → exec (.stRegs x) s = .next t →
    l.toNat = k.toNat + 1 → l.toNat ≤ x.toNat →
    ∃ op, t.mem.fetch16 (s.i.toNat + k.toNat) = .ok op ∧ op.toNat = (s.getV k).toNat * 256 + (s.getV l).toNat

/-! ## Keyboard and timer instructions (43_timers_keys) -/

/-- SKP and SKNP: a value above 0xF names no key and is not held (43_timers_keys section 1; decision D14). -/
def Obligations.KeySkipsTestTheMask : Prop :=
  ∀ (x : Nibble) (s : State),
    (∀ k : Key, (s.getV x).toNat = k.val →
      exec (.skp x) s = .next { s with pc := if s.keyboard.getLsbD k.val = true then s.pc + 2 else s.pc } ∧
      exec (.sknp x) s = .next { s with pc := if s.keyboard.getLsbD k.val = true then s.pc else s.pc + 2 }) ∧
    (0xF < (s.getV x).toNat → exec (.skp x) s = .next s ∧ exec (.sknp x) s = .next { s with pc := s.pc + 2 })

/-- LD Vx, DT reads the delay timer (43_timers_keys section 2); in a step it sees this step's gate (decision D15). -/
def Obligations.TimerReadFollowsTheGate : Prop :=
  ∀ (x : Nibble) (s : State),
    (∃ t, exec (.ldVxDT x) s = .next t ∧ t.getV x = s.delayTimer ∧ (∀ z, z ≠ x → t.getV z = s.getV z) ∧ t = { s with v := t.v }) ∧
    (∀ (now : Rat) (r : Byte) (op : Word), s.session = .loaded → s.awaitingKey = false →
      s.mem.fetch16 s.pc.toNat = .ok op → decode op = .ok (.ldVxDT x) →
      ∃ t, s.perform (.step now r) = .next t ∧ t.getV x = (s.timerGate now).delayTimer ∧ t.delayTimer = (s.timerGate now).delayTimer)

/-- R235, R236. LD DT, Vx and LD ST, Vx; the timestamp is untouched and the sound output follows the counter at once. -/
def Obligations.TimerWritesSetTheCounter : Prop :=
  ∀ (x : Nibble) (s : State),
    decode (0xF#4 ++ (x ++ 0x15#8)) = .ok (.ldDTVx x) ∧ decode (0xF#4 ++ (x ++ 0x18#8)) = .ok (.ldSTVx x) ∧
    exec (.ldDTVx x) s = .next { s with delayTimer := s.getV x } ∧
    (∃ t, exec (.ldSTVx x) s = .next t ∧ t.soundTimer = s.getV x ∧ (t.beep = true ↔ 1 ≤ (s.getV x).toNat) ∧
      t = { s with soundTimer := t.soundTimer })

/-- LD Vx, K suspends with pc back at itself, looks at no key and writes no register; run from a fetch it is what the suspended machine
still addresses (43_timers_keys section 3). -/
def Obligations.KeyWaitSuspendsInPlace : Prop :=
  ∀ (x : Nibble) (s : State),
    exec (.ldVxK x) s = .next { s with awaitingKey := true, pc := s.pc - 2 } ∧
    (∀ (now : Rat) (r : Byte) (op : Word), s.session = .loaded → s.awaitingKey = false →
      s.mem.fetch16 s.pc.toNat = .ok op → decode op = .ok (.ldVxK x) →
      ∃ t, s.perform (.step now r) = .next t ∧ t.awaitingKey = true ∧ t.pc = s.pc ∧ t.v = s.v)

/-- R234, R317. A key-down sets its bit; while a key is awaited it also writes k to the register named by the opcode at pc, ends the wait
and moves pc past it. A key-up clears its bit and completes nothing. -/
def Obligations.KeyEventsAndCompletion : Prop :=
  ∀ (k : Key) (s : State),
    (∃ kb : Word, (∀ j, kb.getLsbD j = (s.keyboard.getLsbD j || decide (j = k.val))) ∧
      (s.awaitingKey = false → s.perform (.keyDown k) = .next { s with keyboard := kb, reply := .noOutput }) ∧
      (∀ op, s.awaitingKey = true → s.mem.fetch16 s.pc.toNat = .ok op →
        ∃ t, s.perform (.keyDown k) = .next t ∧ (t.getV (opX op)).toNat = k.val ∧
          (∀ z, z ≠ opX op → t.getV z = s.getV z) ∧
          t = { s with keyboard := kb, v := t.v, awaitingKey := false, pc := s.pc + 2, reply := .noOutput })) ∧
    (∃ kb : Word, (∀ j, kb.getLsbD j = (s.keyboard.getLsbD j && !decide (j = k.val))) ∧
      s.perform (.keyUp k) = .next { s with keyboard := kb, reply := .noOutput })

/-! ## Display (44_display) -/

/-- R260. CLS turns all 2048 pixels off and nothing else. -/
def Obligations.ClearTurnsAllPixelsOff : Prop :=
  ∀ s : State, decode 0x00E0#16 = .ok .cls ∧
    ∃ t, exec .cls s = .next t ∧ (∀ r c, r < 32 → c < 64 → t.framebuffer.pixel r c = false) ∧
      t = { s with framebuffer := t.framebuffer }

/-- DRW, exactly: every pixel under an on-screen 1 bit of the sprite is flipped, every other pixel is unchanged, VF = 1 iff one of the
flipped pixels was on, and nothing else changes: clipped at the right and bottom edges, never wrapped (44_display sections 1 and 2; the premise
is the range bound of decision D24, log entry 7). -/
def Obligations.DrawFlipsExactlyTheSprite : Prop :=
  ∀ (x y n : Nibble) (s : State), (n.toNat = 0 ∨ s.i.toNat + n.toNat - 1 ≤ 0xFFF) →
    ∃ t, exec (.drw x y n) s = .next t ∧
      (∀ r c, t.framebuffer.pixel r c = (s.framebuffer.pixel r c ^^ s.spriteBit x y n r c)) ∧
      ((∃ r c, s.spriteBit x y n r c = true ∧ s.framebuffer.pixel r c = true) → t.getV 0xF#4 = 1#8) ∧
      ((¬ ∃ r c, s.spriteBit x y n r c = true ∧ s.framebuffer.pixel r c = true) → t.getV 0xF#4 = 0#8) ∧
      (∀ z, z ≠ 0xF#4 → t.getV z = s.getV z) ∧
      t = { s with v := t.v, framebuffer := t.framebuffer }

/-- Drawing the same sprite at the same place twice restores the framebuffer; if every on-screen pixel under a 1 bit was off, the first
draw leaves VF = 0 and the second VF = 1 iff the sprite has an on-screen 1 bit (44_display section 2). -/
def Obligations.DrawingTwiceRestores : Prop :=
  ∀ (x y n : Nibble) (s t u : State), (n.toNat = 0 ∨ s.i.toNat + n.toNat - 1 ≤ 0xFFF) → exec (.drw x y n) s = .next t →
    u.framebuffer = t.framebuffer → u.mem = t.mem → u.i = t.i → u.getV x = s.getV x → u.getV y = s.getV y →
    ∃ w, exec (.drw x y n) u = .next w ∧ w.framebuffer = s.framebuffer ∧
      ((∀ r c, s.spriteBit x y n r c = true → s.framebuffer.pixel r c = false) →
        t.getV 0xF#4 = 0#8 ∧ (w.getV 0xF#4 = 1#8 ↔ ∃ r c, s.spriteBit x y n r c = true))

/-! ## Reset and the host's operations (70_reset_and_hazards, 60_exceptions section 6) -/

/-- What the host's one load of at most 3584 bytes leaves, from any state in which none was called: the font, the program, zeros
elsewhere, pc = 0x200, sp = 0, nothing else; a longer program raises ProgramTooLarge, changes nothing of the machine and starts no
session (70_reset_and_hazards section 1; decision D30; log entries 4 and 9). -/
def Obligations.LoadInstallsTheProgram : Prop :=
  ∀ (bytes : List Byte) (s : State), s.session = .notLoaded →
    (bytes.length ≤ 3584 → ∃ t, s.perform (.load bytes) = .next t ∧
      (∀ k (h : k < bytes.length), t.mem.read (0x200 + k) = bytes[k]) ∧
      (∀ a, a < 0x50 → t.mem.read a = Params.fontByte a) ∧
      (∀ a, (0x50 ≤ a ∧ a < 0x200) ∨ (0x200 + bytes.length ≤ a ∧ a ≤ 0xFFF) → t.mem.read a = 0#8) ∧
      t.pc = 0x200#16 ∧ t.sp.val = 0 ∧
      t = { s with mem := t.mem, pc := t.pc, sp := t.sp, session := .loaded, reply := .ok }) ∧
    (3584 < bytes.length → s.perform (.load bytes) = .next { s with
      error := some (s.error.getD (.programTooLarge bytes.length))
      reply := .error (.programTooLarge bytes.length)
      session := .failed })

/-- The values at reset: those the spec gives (pc 0x200, sp 0, the font at 0x000, zeros from 0x050 to 0x1FF, no key held, not suspended;
10_state section 11), no error recorded, as at a clean launch (70_reset_and_hazards section 2; the record is the model's form of
60_exceptions section 2, log entry 4), and zeros from 0x200 to 0xFFF, which rest on the model's choice of a load of length 0 (log
entry 6) and on what an unlisted address reads as (log entry 13). The fields the spec leaves arbitrary are log entry 5 and are not
stated here. -/
def Obligations.ResetHasTheGivenValues : Prop :=
  State.reset.pc = 0x200#16 ∧ State.reset.sp.val = 0 ∧ State.reset.keyboard = 0#16 ∧ State.reset.awaitingKey = false ∧
  State.reset.error = none ∧ (∀ a, a < 0x50 → State.reset.mem.read a = Params.fontByte a) ∧
  (∀ a, 0x50 ≤ a → a ≤ 0xFFF → State.reset.mem.read a = 0#8)

/-- The reset state is a clean launch with no program: the zeros of the fields that the spec leaves arbitrary are the model's choice
(10_state section 11; log entry 5), the load of length 0 is another (log entry 6), and that a clean launch, which is defined in
70_reset_and_hazards section 2 with no error recorded (the record is log entry 4), includes last_tick = 0 is log entry 17. -/
def Obligations.ResetIsACleanLaunch : Prop := State.reset.CleanLaunch []

/-- The host's three reads hand back the pixels, the sound level with the raw counter, and the awaiting flag, and change nothing
(60_exceptions sections 4, 5 and 6). -/
def Obligations.HostReadsChangeNothing : Prop :=
  ∀ s : State,
    s.perform .readFramebuffer = .next { s with reply := .pixels s.framebuffer } ∧
    s.perform .soundLevel = .next { s with reply := .sound (decide (0 < s.soundTimer.toNat)) s.soundTimer } ∧
    s.perform .isAwaitingKey = .next { s with reply := .awaiting s.awaitingKey }

/-- The operations with no transition are exactly the calls outside the host's contract: a `step` with no program loaded, and a `load`
after the first one (60_exceptions section 6, decision D25; log entry 9). -/
def Obligations.ContractBreachesAreRefused : Prop :=
  ∀ (s : State) (op : HostOp),
    (∃ q, s.perform op = .refused q) ↔
    (s.session ≠ .loaded ∧ ∃ now r, op = .step now r) ∨ (s.session ≠ .notLoaded ∧ ∃ bytes, op = .load bytes)
end

