-- ==== Sys2Proof/Laws/Decode.lean ====
section
/-! SUPPORT. The fields of an encoded word, format by format (30_encoding R91, R94), and the bytes of a word (20_memory R64). -/

namespace Sys2Proof

theorem getLsbD_fmtNNN (f : Nibble) (nnn : Addr12) (j : Nat) :
    (fmtNNN f nnn).getLsbD j = if j < 12 then nnn.getLsbD j else f.getLsbD (j - 12) := BitVec.getLsbD_append

theorem getLsbD_fmtXNN (f x : Nibble) (nn : Byte) (j : Nat) :
    (fmtXNN f x nn).getLsbD j =
      if j < 12 then (if j < 8 then nn.getLsbD j else x.getLsbD (j - 8)) else f.getLsbD (j - 12) := by
  have h : (x ++ nn : BitVec 12).getLsbD j = if j < 8 then nn.getLsbD j else x.getLsbD (j - 8) := BitVec.getLsbD_append
  rw [← h]
  exact BitVec.getLsbD_append

theorem fmtXYN_eq (f x y n : Nibble) : fmtXYN f x y n = fmtXNN f x (y ++ n) := rfl

theorem fmtXNN_eq (f x : Nibble) (nn : Byte) : fmtXNN f x nn = fmtNNN f (x ++ nn) := rfl

@[simp] theorem opFamily_fmtNNN (f : Nibble) (nnn : Addr12) : opFamily (fmtNNN f nnn) = f := by
  apply BitVec.eq_of_getLsbD_eq
  intro j hj
  simp [opFamily, getLsbD_fmtNNN, hj]

@[simp] theorem opNNN_fmtNNN (f : Nibble) (nnn : Addr12) : opNNN (fmtNNN f nnn) = nnn := by
  apply BitVec.eq_of_getLsbD_eq
  intro j hj
  simp [opNNN, getLsbD_fmtNNN, hj]

@[simp] theorem opFamily_fmtXNN (f x : Nibble) (nn : Byte) : opFamily (fmtXNN f x nn) = f := by
  rw [fmtXNN_eq, opFamily_fmtNNN]

@[simp] theorem opX_fmtXNN (f x : Nibble) (nn : Byte) : opX (fmtXNN f x nn) = x := by
  apply BitVec.eq_of_getLsbD_eq
  intro j hj
  simp [opX, getLsbD_fmtXNN, hj, show 8 + j < 12 by omega]

@[simp] theorem opNN_fmtXNN (f x : Nibble) (nn : Byte) : opNN (fmtXNN f x nn) = nn := by
  apply BitVec.eq_of_getLsbD_eq
  intro j hj
  simp [opNN, getLsbD_fmtXNN, hj, show j < 12 by omega]

@[simp] theorem opFamily_fmtXYN (f x y n : Nibble) : opFamily (fmtXYN f x y n) = f := by
  rw [fmtXYN_eq, opFamily_fmtXNN]

@[simp] theorem opX_fmtXYN (f x y n : Nibble) : opX (fmtXYN f x y n) = x := by
  rw [fmtXYN_eq, opX_fmtXNN]

theorem getLsbD_nibbles (y n : Nibble) (j : Nat) :
    (y ++ n : BitVec 8).getLsbD j = if j < 4 then n.getLsbD j else y.getLsbD (j - 4) := BitVec.getLsbD_append

@[simp] theorem opY_fmtXYN (f x y n : Nibble) : opY (fmtXYN f x y n) = y := by
  apply BitVec.eq_of_getLsbD_eq
  intro j hj
  simp only [opY, fmtXYN_eq, BitVec.getLsbD_extractLsb', getLsbD_fmtXNN, getLsbD_nibbles]
  simp [hj, show 4 + j < 12 by omega, show 4 + j < 8 by omega]

@[simp] theorem opN_fmtXYN (f x y n : Nibble) : opN (fmtXYN f x y n) = n := by
  apply BitVec.eq_of_getLsbD_eq
  intro j hj
  simp only [opN, fmtXYN_eq, BitVec.getLsbD_extractLsb', getLsbD_fmtXNN, getLsbD_nibbles]
  simp [hj, show j < 12 by omega, show j < 8 by omega]

/-- A word is its family nibble and its `nnn` (30_encoding R91). -/
theorem fmtNNN_fields (op : Word) : fmtNNN (opFamily op) (opNNN op) = op := by
  apply BitVec.eq_of_getLsbD_eq
  intro j hj
  rw [getLsbD_fmtNNN]
  by_cases h : j < 12
  · simp [h, opNNN]
  · simp [h, opFamily, show j - 12 < 4 by omega, show 12 + (j - 12) = j by omega]

/-- A word is its family nibble, `x` and `nn` (30_encoding R91). -/
theorem fmtXNN_fields (op : Word) : fmtXNN (opFamily op) (opX op) (opNN op) = op := by
  apply BitVec.eq_of_getLsbD_eq
  intro j hj
  rw [getLsbD_fmtXNN]
  by_cases h : j < 12
  · by_cases h8 : j < 8
    · simp [h, h8, opNN]
    · simp [h, h8, opX, show j - 8 < 4 by omega, show 8 + (j - 8) = j by omega]
  · simp [h, opFamily, show j - 12 < 4 by omega, show 12 + (j - 12) = j by omega]

/-- A word is its four nibbles (30_encoding R91). -/
theorem fmtXYN_fields (op : Word) : fmtXYN (opFamily op) (opX op) (opY op) (opN op) = op := by
  have h : (opY op ++ opN op : BitVec 8) = opNN op := by
    apply BitVec.eq_of_getLsbD_eq
    intro j hj
    rw [getLsbD_nibbles]
    by_cases h : j < 4
    · simp [h, opN, opNN, hj]
    · simp [h, opY, opNN, hj, show j - 4 < 4 by omega, show 4 + (j - 4) = j by omega]
  rw [fmtXYN_eq, h, fmtXNN_fields]

/-- The two bytes of a word, put together again (20_memory R64). -/
@[simp] theorem wordOfBytes_hi_lo (op : Word) : wordOfBytes (wordHi op) (wordLo op) = op := by
  apply BitVec.eq_of_getLsbD_eq
  intro j hj
  have : (wordOfBytes (wordHi op) (wordLo op)).getLsbD j =
      if j < 8 then (wordLo op).getLsbD j else (wordHi op).getLsbD (j - 8) := BitVec.getLsbD_append
  rw [this]
  by_cases h : j < 8
  · simp [h, wordLo]
  · simp [h, wordHi, show j - 8 < 8 by omega, show 8 + (j - 8) = j by omega]

end Sys2Proof
end

