-- ==== Sys2Proof/Laws/State.lean ====
section
/-! SUPPORT. What each update of State leaves in each field: one lemma per field per update, so that no proof unfolds a record
update. -/

namespace Sys2Proof.Machine

/-! `State.setV` -/

@[simp] theorem State.setV_mem (s : State) (x : Nibble) (b : Byte) : (s.setV x b).mem = s.mem := rfl
@[simp] theorem State.setV_v (s : State) (x : Nibble) (b : Byte) : (s.setV x b).v = s.v.set x.toNat b x.isLt := rfl
@[simp] theorem State.setV_i (s : State) (x : Nibble) (b : Byte) : (s.setV x b).i = s.i := rfl
@[simp] theorem State.setV_stack (s : State) (x : Nibble) (b : Byte) : (s.setV x b).stack = s.stack := rfl
@[simp] theorem State.setV_sp (s : State) (x : Nibble) (b : Byte) : (s.setV x b).sp = s.sp := rfl
@[simp] theorem State.setV_pc (s : State) (x : Nibble) (b : Byte) : (s.setV x b).pc = s.pc := rfl
@[simp] theorem State.setV_delayTimer (s : State) (x : Nibble) (b : Byte) : (s.setV x b).delayTimer = s.delayTimer := rfl
@[simp] theorem State.setV_soundTimer (s : State) (x : Nibble) (b : Byte) : (s.setV x b).soundTimer = s.soundTimer := rfl
@[simp] theorem State.setV_keyboard (s : State) (x : Nibble) (b : Byte) : (s.setV x b).keyboard = s.keyboard := rfl
@[simp] theorem State.setV_framebuffer (s : State) (x : Nibble) (b : Byte) : (s.setV x b).framebuffer = s.framebuffer := rfl
@[simp] theorem State.setV_awaitingKey (s : State) (x : Nibble) (b : Byte) : (s.setV x b).awaitingKey = s.awaitingKey := rfl
@[simp] theorem State.setV_lastTick (s : State) (x : Nibble) (b : Byte) : (s.setV x b).lastTick = s.lastTick := rfl
@[simp] theorem State.setV_error (s : State) (x : Nibble) (b : Byte) : (s.setV x b).error = s.error := rfl
@[simp] theorem State.setV_reply (s : State) (x : Nibble) (b : Byte) : (s.setV x b).reply = s.reply := rfl
@[simp] theorem State.setV_session (s : State) (x : Nibble) (b : Byte) : (s.setV x b).session = s.session := rfl
@[simp] theorem State.setV_rnd (s : State) (x : Nibble) (b : Byte) : (s.setV x b).rnd = s.rnd := rfl
@[simp] theorem State.setV_inputs (s : State) (x : Nibble) (b : Byte) : (s.setV x b).inputs = s.inputs := rfl
@[simp] theorem State.setV_inputIndex (s : State) (x : Nibble) (b : Byte) : (s.setV x b).inputIndex = s.inputIndex := rfl

/-! `State.setVF` -/

@[simp] theorem State.setVF_mem (s : State) (b : Byte) : (s.setVF b).mem = s.mem := rfl
@[simp] theorem State.setVF_i (s : State) (b : Byte) : (s.setVF b).i = s.i := rfl
@[simp] theorem State.setVF_stack (s : State) (b : Byte) : (s.setVF b).stack = s.stack := rfl
@[simp] theorem State.setVF_sp (s : State) (b : Byte) : (s.setVF b).sp = s.sp := rfl
@[simp] theorem State.setVF_pc (s : State) (b : Byte) : (s.setVF b).pc = s.pc := rfl
@[simp] theorem State.setVF_delayTimer (s : State) (b : Byte) : (s.setVF b).delayTimer = s.delayTimer := rfl
@[simp] theorem State.setVF_soundTimer (s : State) (b : Byte) : (s.setVF b).soundTimer = s.soundTimer := rfl
@[simp] theorem State.setVF_keyboard (s : State) (b : Byte) : (s.setVF b).keyboard = s.keyboard := rfl
@[simp] theorem State.setVF_framebuffer (s : State) (b : Byte) : (s.setVF b).framebuffer = s.framebuffer := rfl
@[simp] theorem State.setVF_awaitingKey (s : State) (b : Byte) : (s.setVF b).awaitingKey = s.awaitingKey := rfl
@[simp] theorem State.setVF_lastTick (s : State) (b : Byte) : (s.setVF b).lastTick = s.lastTick := rfl
@[simp] theorem State.setVF_error (s : State) (b : Byte) : (s.setVF b).error = s.error := rfl
@[simp] theorem State.setVF_reply (s : State) (b : Byte) : (s.setVF b).reply = s.reply := rfl
@[simp] theorem State.setVF_session (s : State) (b : Byte) : (s.setVF b).session = s.session := rfl
@[simp] theorem State.setVF_rnd (s : State) (b : Byte) : (s.setVF b).rnd = s.rnd := rfl
@[simp] theorem State.setVF_inputs (s : State) (b : Byte) : (s.setVF b).inputs = s.inputs := rfl
@[simp] theorem State.setVF_inputIndex (s : State) (b : Byte) : (s.setVF b).inputIndex = s.inputIndex := rfl

/-! `State.setI` -/

@[simp] theorem State.setI_mem (s : State) (a : Word) : (s.setI a).mem = s.mem := rfl
@[simp] theorem State.setI_v (s : State) (a : Word) : (s.setI a).v = s.v := rfl
@[simp] theorem State.setI_i (s : State) (a : Word) : (s.setI a).i = a := rfl
@[simp] theorem State.setI_stack (s : State) (a : Word) : (s.setI a).stack = s.stack := rfl
@[simp] theorem State.setI_sp (s : State) (a : Word) : (s.setI a).sp = s.sp := rfl
@[simp] theorem State.setI_pc (s : State) (a : Word) : (s.setI a).pc = s.pc := rfl
@[simp] theorem State.setI_delayTimer (s : State) (a : Word) : (s.setI a).delayTimer = s.delayTimer := rfl
@[simp] theorem State.setI_soundTimer (s : State) (a : Word) : (s.setI a).soundTimer = s.soundTimer := rfl
@[simp] theorem State.setI_keyboard (s : State) (a : Word) : (s.setI a).keyboard = s.keyboard := rfl
@[simp] theorem State.setI_framebuffer (s : State) (a : Word) : (s.setI a).framebuffer = s.framebuffer := rfl
@[simp] theorem State.setI_awaitingKey (s : State) (a : Word) : (s.setI a).awaitingKey = s.awaitingKey := rfl
@[simp] theorem State.setI_lastTick (s : State) (a : Word) : (s.setI a).lastTick = s.lastTick := rfl
@[simp] theorem State.setI_error (s : State) (a : Word) : (s.setI a).error = s.error := rfl
@[simp] theorem State.setI_reply (s : State) (a : Word) : (s.setI a).reply = s.reply := rfl
@[simp] theorem State.setI_session (s : State) (a : Word) : (s.setI a).session = s.session := rfl
@[simp] theorem State.setI_rnd (s : State) (a : Word) : (s.setI a).rnd = s.rnd := rfl
@[simp] theorem State.setI_inputs (s : State) (a : Word) : (s.setI a).inputs = s.inputs := rfl
@[simp] theorem State.setI_inputIndex (s : State) (a : Word) : (s.setI a).inputIndex = s.inputIndex := rfl
@[simp] theorem State.setI_getV (s : State) (a : Word) (z : Nibble) : (s.setI a).getV z = s.getV z := rfl

/-! `State.setPc` -/

@[simp] theorem State.setPc_mem (s : State) (a : Word) : (s.setPc a).mem = s.mem := rfl
@[simp] theorem State.setPc_v (s : State) (a : Word) : (s.setPc a).v = s.v := rfl
@[simp] theorem State.setPc_i (s : State) (a : Word) : (s.setPc a).i = s.i := rfl
@[simp] theorem State.setPc_stack (s : State) (a : Word) : (s.setPc a).stack = s.stack := rfl
@[simp] theorem State.setPc_sp (s : State) (a : Word) : (s.setPc a).sp = s.sp := rfl
@[simp] theorem State.setPc_pc (s : State) (a : Word) : (s.setPc a).pc = a := rfl
@[simp] theorem State.setPc_delayTimer (s : State) (a : Word) : (s.setPc a).delayTimer = s.delayTimer := rfl
@[simp] theorem State.setPc_soundTimer (s : State) (a : Word) : (s.setPc a).soundTimer = s.soundTimer := rfl
@[simp] theorem State.setPc_keyboard (s : State) (a : Word) : (s.setPc a).keyboard = s.keyboard := rfl
@[simp] theorem State.setPc_framebuffer (s : State) (a : Word) : (s.setPc a).framebuffer = s.framebuffer := rfl
@[simp] theorem State.setPc_awaitingKey (s : State) (a : Word) : (s.setPc a).awaitingKey = s.awaitingKey := rfl
@[simp] theorem State.setPc_lastTick (s : State) (a : Word) : (s.setPc a).lastTick = s.lastTick := rfl
@[simp] theorem State.setPc_error (s : State) (a : Word) : (s.setPc a).error = s.error := rfl
@[simp] theorem State.setPc_reply (s : State) (a : Word) : (s.setPc a).reply = s.reply := rfl
@[simp] theorem State.setPc_session (s : State) (a : Word) : (s.setPc a).session = s.session := rfl
@[simp] theorem State.setPc_rnd (s : State) (a : Word) : (s.setPc a).rnd = s.rnd := rfl
@[simp] theorem State.setPc_inputs (s : State) (a : Word) : (s.setPc a).inputs = s.inputs := rfl
@[simp] theorem State.setPc_inputIndex (s : State) (a : Word) : (s.setPc a).inputIndex = s.inputIndex := rfl
@[simp] theorem State.setPc_getV (s : State) (a : Word) (z : Nibble) : (s.setPc a).getV z = s.getV z := rfl

/-! `State.skipIf` -/

@[simp] theorem State.skipIf_mem (s : State) (c : Bool) : (s.skipIf c).mem = s.mem := rfl
@[simp] theorem State.skipIf_v (s : State) (c : Bool) : (s.skipIf c).v = s.v := rfl
@[simp] theorem State.skipIf_i (s : State) (c : Bool) : (s.skipIf c).i = s.i := rfl
@[simp] theorem State.skipIf_stack (s : State) (c : Bool) : (s.skipIf c).stack = s.stack := rfl
@[simp] theorem State.skipIf_sp (s : State) (c : Bool) : (s.skipIf c).sp = s.sp := rfl
@[simp] theorem State.skipIf_pc (s : State) (c : Bool) : (s.skipIf c).pc = if c then s.pc + 2 else s.pc := rfl
@[simp] theorem State.skipIf_delayTimer (s : State) (c : Bool) : (s.skipIf c).delayTimer = s.delayTimer := rfl
@[simp] theorem State.skipIf_soundTimer (s : State) (c : Bool) : (s.skipIf c).soundTimer = s.soundTimer := rfl
@[simp] theorem State.skipIf_keyboard (s : State) (c : Bool) : (s.skipIf c).keyboard = s.keyboard := rfl
@[simp] theorem State.skipIf_framebuffer (s : State) (c : Bool) : (s.skipIf c).framebuffer = s.framebuffer := rfl
@[simp] theorem State.skipIf_awaitingKey (s : State) (c : Bool) : (s.skipIf c).awaitingKey = s.awaitingKey := rfl
@[simp] theorem State.skipIf_lastTick (s : State) (c : Bool) : (s.skipIf c).lastTick = s.lastTick := rfl
@[simp] theorem State.skipIf_error (s : State) (c : Bool) : (s.skipIf c).error = s.error := rfl
@[simp] theorem State.skipIf_reply (s : State) (c : Bool) : (s.skipIf c).reply = s.reply := rfl
@[simp] theorem State.skipIf_session (s : State) (c : Bool) : (s.skipIf c).session = s.session := rfl
@[simp] theorem State.skipIf_rnd (s : State) (c : Bool) : (s.skipIf c).rnd = s.rnd := rfl
@[simp] theorem State.skipIf_inputs (s : State) (c : Bool) : (s.skipIf c).inputs = s.inputs := rfl
@[simp] theorem State.skipIf_inputIndex (s : State) (c : Bool) : (s.skipIf c).inputIndex = s.inputIndex := rfl
@[simp] theorem State.skipIf_getV (s : State) (c : Bool) (z : Nibble) : (s.skipIf c).getV z = s.getV z := rfl

/-! `State.raise` -/

@[simp] theorem State.raise_mem (s : State) (e : ErrorInfo) : (s.raise e).mem = s.mem := rfl
@[simp] theorem State.raise_v (s : State) (e : ErrorInfo) : (s.raise e).v = s.v := rfl
@[simp] theorem State.raise_i (s : State) (e : ErrorInfo) : (s.raise e).i = s.i := rfl
@[simp] theorem State.raise_stack (s : State) (e : ErrorInfo) : (s.raise e).stack = s.stack := rfl
@[simp] theorem State.raise_sp (s : State) (e : ErrorInfo) : (s.raise e).sp = s.sp := rfl
@[simp] theorem State.raise_pc (s : State) (e : ErrorInfo) : (s.raise e).pc = s.pc := rfl
@[simp] theorem State.raise_delayTimer (s : State) (e : ErrorInfo) : (s.raise e).delayTimer = s.delayTimer := rfl
@[simp] theorem State.raise_soundTimer (s : State) (e : ErrorInfo) : (s.raise e).soundTimer = s.soundTimer := rfl
@[simp] theorem State.raise_keyboard (s : State) (e : ErrorInfo) : (s.raise e).keyboard = s.keyboard := rfl
@[simp] theorem State.raise_framebuffer (s : State) (e : ErrorInfo) : (s.raise e).framebuffer = s.framebuffer := rfl
@[simp] theorem State.raise_awaitingKey (s : State) (e : ErrorInfo) : (s.raise e).awaitingKey = s.awaitingKey := rfl
@[simp] theorem State.raise_lastTick (s : State) (e : ErrorInfo) : (s.raise e).lastTick = s.lastTick := rfl
@[simp] theorem State.raise_error (s : State) (e : ErrorInfo) : (s.raise e).error = some (s.error.getD e) := rfl
@[simp] theorem State.raise_reply (s : State) (e : ErrorInfo) : (s.raise e).reply = .error e := rfl
@[simp] theorem State.raise_session (s : State) (e : ErrorInfo) : (s.raise e).session = s.session := rfl
@[simp] theorem State.raise_rnd (s : State) (e : ErrorInfo) : (s.raise e).rnd = s.rnd := rfl
@[simp] theorem State.raise_inputs (s : State) (e : ErrorInfo) : (s.raise e).inputs = s.inputs := rfl
@[simp] theorem State.raise_inputIndex (s : State) (e : ErrorInfo) : (s.raise e).inputIndex = s.inputIndex := rfl
@[simp] theorem State.raise_getV (s : State) (e : ErrorInfo) (z : Nibble) : (s.raise e).getV z = s.getV z := rfl

/-! `State.raiseRange` -/

@[simp] theorem State.raiseRange_mem (s : State) (a : Nat) (j : Instr) : (s.raiseRange a j).mem = s.mem := rfl
@[simp] theorem State.raiseRange_v (s : State) (a : Nat) (j : Instr) : (s.raiseRange a j).v = s.v := rfl
@[simp] theorem State.raiseRange_i (s : State) (a : Nat) (j : Instr) : (s.raiseRange a j).i = s.i := rfl
@[simp] theorem State.raiseRange_stack (s : State) (a : Nat) (j : Instr) : (s.raiseRange a j).stack = s.stack := rfl
@[simp] theorem State.raiseRange_sp (s : State) (a : Nat) (j : Instr) : (s.raiseRange a j).sp = s.sp := rfl
@[simp] theorem State.raiseRange_pc (s : State) (a : Nat) (j : Instr) : (s.raiseRange a j).pc = s.pc := rfl
@[simp] theorem State.raiseRange_delayTimer (s : State) (a : Nat) (j : Instr) : (s.raiseRange a j).delayTimer = s.delayTimer := rfl
@[simp] theorem State.raiseRange_soundTimer (s : State) (a : Nat) (j : Instr) : (s.raiseRange a j).soundTimer = s.soundTimer := rfl
@[simp] theorem State.raiseRange_keyboard (s : State) (a : Nat) (j : Instr) : (s.raiseRange a j).keyboard = s.keyboard := rfl
@[simp] theorem State.raiseRange_framebuffer (s : State) (a : Nat) (j : Instr) : (s.raiseRange a j).framebuffer = s.framebuffer := rfl
@[simp] theorem State.raiseRange_awaitingKey (s : State) (a : Nat) (j : Instr) : (s.raiseRange a j).awaitingKey = s.awaitingKey := rfl
@[simp] theorem State.raiseRange_lastTick (s : State) (a : Nat) (j : Instr) : (s.raiseRange a j).lastTick = s.lastTick := rfl
@[simp] theorem State.raiseRange_error (s : State) (a : Nat) (j : Instr) : (s.raiseRange a j).error = some (s.error.getD (.memoryOutOfRange a (some (encode j)) s.pcF)) := rfl
@[simp] theorem State.raiseRange_reply (s : State) (a : Nat) (j : Instr) : (s.raiseRange a j).reply = .error (.memoryOutOfRange a (some (encode j)) s.pcF) := rfl
@[simp] theorem State.raiseRange_session (s : State) (a : Nat) (j : Instr) : (s.raiseRange a j).session = s.session := rfl
@[simp] theorem State.raiseRange_rnd (s : State) (a : Nat) (j : Instr) : (s.raiseRange a j).rnd = s.rnd := rfl
@[simp] theorem State.raiseRange_inputs (s : State) (a : Nat) (j : Instr) : (s.raiseRange a j).inputs = s.inputs := rfl
@[simp] theorem State.raiseRange_inputIndex (s : State) (a : Nat) (j : Instr) : (s.raiseRange a j).inputIndex = s.inputIndex := rfl
@[simp] theorem State.raiseRange_getV (s : State) (a : Nat) (j : Instr) (z : Nibble) : (s.raiseRange a j).getV z = s.getV z := rfl

/-! `State.setResult` -/

@[simp] theorem State.setResult_mem (s : State) (x : Nibble) (r : Byte) (f : Bool) : (s.setResult x r f).mem = s.mem := rfl
@[simp] theorem State.setResult_i (s : State) (x : Nibble) (r : Byte) (f : Bool) : (s.setResult x r f).i = s.i := rfl
@[simp] theorem State.setResult_stack (s : State) (x : Nibble) (r : Byte) (f : Bool) : (s.setResult x r f).stack = s.stack := rfl
@[simp] theorem State.setResult_sp (s : State) (x : Nibble) (r : Byte) (f : Bool) : (s.setResult x r f).sp = s.sp := rfl
@[simp] theorem State.setResult_pc (s : State) (x : Nibble) (r : Byte) (f : Bool) : (s.setResult x r f).pc = s.pc := rfl
@[simp] theorem State.setResult_delayTimer (s : State) (x : Nibble) (r : Byte) (f : Bool) : (s.setResult x r f).delayTimer = s.delayTimer := rfl
@[simp] theorem State.setResult_soundTimer (s : State) (x : Nibble) (r : Byte) (f : Bool) : (s.setResult x r f).soundTimer = s.soundTimer := rfl
@[simp] theorem State.setResult_keyboard (s : State) (x : Nibble) (r : Byte) (f : Bool) : (s.setResult x r f).keyboard = s.keyboard := rfl
@[simp] theorem State.setResult_framebuffer (s : State) (x : Nibble) (r : Byte) (f : Bool) : (s.setResult x r f).framebuffer = s.framebuffer := rfl
@[simp] theorem State.setResult_awaitingKey (s : State) (x : Nibble) (r : Byte) (f : Bool) : (s.setResult x r f).awaitingKey = s.awaitingKey := rfl
@[simp] theorem State.setResult_lastTick (s : State) (x : Nibble) (r : Byte) (f : Bool) : (s.setResult x r f).lastTick = s.lastTick := rfl
@[simp] theorem State.setResult_error (s : State) (x : Nibble) (r : Byte) (f : Bool) : (s.setResult x r f).error = s.error := rfl
@[simp] theorem State.setResult_reply (s : State) (x : Nibble) (r : Byte) (f : Bool) : (s.setResult x r f).reply = s.reply := rfl
@[simp] theorem State.setResult_session (s : State) (x : Nibble) (r : Byte) (f : Bool) : (s.setResult x r f).session = s.session := rfl
@[simp] theorem State.setResult_rnd (s : State) (x : Nibble) (r : Byte) (f : Bool) : (s.setResult x r f).rnd = s.rnd := rfl
@[simp] theorem State.setResult_inputs (s : State) (x : Nibble) (r : Byte) (f : Bool) : (s.setResult x r f).inputs = s.inputs := rfl
@[simp] theorem State.setResult_inputIndex (s : State) (x : Nibble) (r : Byte) (f : Bool) : (s.setResult x r f).inputIndex = s.inputIndex := rfl

/-! `State.timerGate` -/

@[simp] theorem State.timerGate_mem (s : State) (now : Rat) : (s.timerGate now).mem = s.mem := rfl
@[simp] theorem State.timerGate_v (s : State) (now : Rat) : (s.timerGate now).v = s.v := rfl
@[simp] theorem State.timerGate_i (s : State) (now : Rat) : (s.timerGate now).i = s.i := rfl
@[simp] theorem State.timerGate_stack (s : State) (now : Rat) : (s.timerGate now).stack = s.stack := rfl
@[simp] theorem State.timerGate_sp (s : State) (now : Rat) : (s.timerGate now).sp = s.sp := rfl
@[simp] theorem State.timerGate_pc (s : State) (now : Rat) : (s.timerGate now).pc = s.pc := rfl
@[simp] theorem State.timerGate_delayTimer (s : State) (now : Rat) : (s.timerGate now).delayTimer = if gateFires now s.lastTick then decTimer s.delayTimer else s.delayTimer := rfl
@[simp] theorem State.timerGate_soundTimer (s : State) (now : Rat) : (s.timerGate now).soundTimer = if gateFires now s.lastTick then decTimer s.soundTimer else s.soundTimer := rfl
@[simp] theorem State.timerGate_keyboard (s : State) (now : Rat) : (s.timerGate now).keyboard = s.keyboard := rfl
@[simp] theorem State.timerGate_framebuffer (s : State) (now : Rat) : (s.timerGate now).framebuffer = s.framebuffer := rfl
@[simp] theorem State.timerGate_awaitingKey (s : State) (now : Rat) : (s.timerGate now).awaitingKey = s.awaitingKey := rfl
@[simp] theorem State.timerGate_lastTick (s : State) (now : Rat) : (s.timerGate now).lastTick = if gateFires now s.lastTick then now else s.lastTick := rfl
@[simp] theorem State.timerGate_error (s : State) (now : Rat) : (s.timerGate now).error = s.error := rfl
@[simp] theorem State.timerGate_reply (s : State) (now : Rat) : (s.timerGate now).reply = s.reply := rfl
@[simp] theorem State.timerGate_session (s : State) (now : Rat) : (s.timerGate now).session = s.session := rfl
@[simp] theorem State.timerGate_rnd (s : State) (now : Rat) : (s.timerGate now).rnd = s.rnd := rfl
@[simp] theorem State.timerGate_inputs (s : State) (now : Rat) : (s.timerGate now).inputs = s.inputs := rfl
@[simp] theorem State.timerGate_inputIndex (s : State) (now : Rat) : (s.timerGate now).inputIndex = s.inputIndex := rfl
@[simp] theorem State.timerGate_getV (s : State) (now : Rat) (z : Nibble) : (s.timerGate now).getV z = s.getV z := rfl

/-! `State.pressKey` -/

@[simp] theorem State.pressKey_mem (s : State) (k : Key) : (s.pressKey k).mem = s.mem := rfl
@[simp] theorem State.pressKey_v (s : State) (k : Key) : (s.pressKey k).v = s.v := rfl
@[simp] theorem State.pressKey_i (s : State) (k : Key) : (s.pressKey k).i = s.i := rfl
@[simp] theorem State.pressKey_stack (s : State) (k : Key) : (s.pressKey k).stack = s.stack := rfl
@[simp] theorem State.pressKey_sp (s : State) (k : Key) : (s.pressKey k).sp = s.sp := rfl
@[simp] theorem State.pressKey_pc (s : State) (k : Key) : (s.pressKey k).pc = s.pc := rfl
@[simp] theorem State.pressKey_delayTimer (s : State) (k : Key) : (s.pressKey k).delayTimer = s.delayTimer := rfl
@[simp] theorem State.pressKey_soundTimer (s : State) (k : Key) : (s.pressKey k).soundTimer = s.soundTimer := rfl
@[simp] theorem State.pressKey_keyboard (s : State) (k : Key) : (s.pressKey k).keyboard = s.keyboard ||| keyMask k := rfl
@[simp] theorem State.pressKey_framebuffer (s : State) (k : Key) : (s.pressKey k).framebuffer = s.framebuffer := rfl
@[simp] theorem State.pressKey_awaitingKey (s : State) (k : Key) : (s.pressKey k).awaitingKey = s.awaitingKey := rfl
@[simp] theorem State.pressKey_lastTick (s : State) (k : Key) : (s.pressKey k).lastTick = s.lastTick := rfl
@[simp] theorem State.pressKey_error (s : State) (k : Key) : (s.pressKey k).error = s.error := rfl
@[simp] theorem State.pressKey_reply (s : State) (k : Key) : (s.pressKey k).reply = s.reply := rfl
@[simp] theorem State.pressKey_session (s : State) (k : Key) : (s.pressKey k).session = s.session := rfl
@[simp] theorem State.pressKey_rnd (s : State) (k : Key) : (s.pressKey k).rnd = s.rnd := rfl
@[simp] theorem State.pressKey_inputs (s : State) (k : Key) : (s.pressKey k).inputs = s.inputs := rfl
@[simp] theorem State.pressKey_inputIndex (s : State) (k : Key) : (s.pressKey k).inputIndex = s.inputIndex := rfl
@[simp] theorem State.pressKey_getV (s : State) (k : Key) (z : Nibble) : (s.pressKey k).getV z = s.getV z := rfl

/-! `State.releaseKey` -/

@[simp] theorem State.releaseKey_mem (s : State) (k : Key) : (s.releaseKey k).mem = s.mem := rfl
@[simp] theorem State.releaseKey_v (s : State) (k : Key) : (s.releaseKey k).v = s.v := rfl
@[simp] theorem State.releaseKey_i (s : State) (k : Key) : (s.releaseKey k).i = s.i := rfl
@[simp] theorem State.releaseKey_stack (s : State) (k : Key) : (s.releaseKey k).stack = s.stack := rfl
@[simp] theorem State.releaseKey_sp (s : State) (k : Key) : (s.releaseKey k).sp = s.sp := rfl
@[simp] theorem State.releaseKey_pc (s : State) (k : Key) : (s.releaseKey k).pc = s.pc := rfl
@[simp] theorem State.releaseKey_delayTimer (s : State) (k : Key) : (s.releaseKey k).delayTimer = s.delayTimer := rfl
@[simp] theorem State.releaseKey_soundTimer (s : State) (k : Key) : (s.releaseKey k).soundTimer = s.soundTimer := rfl
@[simp] theorem State.releaseKey_keyboard (s : State) (k : Key) : (s.releaseKey k).keyboard = s.keyboard &&& ~~~(keyMask k) := rfl
@[simp] theorem State.releaseKey_framebuffer (s : State) (k : Key) : (s.releaseKey k).framebuffer = s.framebuffer := rfl
@[simp] theorem State.releaseKey_awaitingKey (s : State) (k : Key) : (s.releaseKey k).awaitingKey = s.awaitingKey := rfl
@[simp] theorem State.releaseKey_lastTick (s : State) (k : Key) : (s.releaseKey k).lastTick = s.lastTick := rfl
@[simp] theorem State.releaseKey_error (s : State) (k : Key) : (s.releaseKey k).error = s.error := rfl
@[simp] theorem State.releaseKey_reply (s : State) (k : Key) : (s.releaseKey k).reply = s.reply := rfl
@[simp] theorem State.releaseKey_session (s : State) (k : Key) : (s.releaseKey k).session = s.session := rfl
@[simp] theorem State.releaseKey_rnd (s : State) (k : Key) : (s.releaseKey k).rnd = s.rnd := rfl
@[simp] theorem State.releaseKey_inputs (s : State) (k : Key) : (s.releaseKey k).inputs = s.inputs := rfl
@[simp] theorem State.releaseKey_inputIndex (s : State) (k : Key) : (s.releaseKey k).inputIndex = s.inputIndex := rfl
@[simp] theorem State.releaseKey_getV (s : State) (k : Key) (z : Nibble) : (s.releaseKey k).getV z = s.getV z := rfl

/-! `State.fetched` -/

@[simp] theorem State.fetched_mem (s : State) (r : Byte) : (s.fetched r).mem = s.mem := rfl
@[simp] theorem State.fetched_v (s : State) (r : Byte) : (s.fetched r).v = s.v := rfl
@[simp] theorem State.fetched_i (s : State) (r : Byte) : (s.fetched r).i = s.i := rfl
@[simp] theorem State.fetched_stack (s : State) (r : Byte) : (s.fetched r).stack = s.stack := rfl
@[simp] theorem State.fetched_sp (s : State) (r : Byte) : (s.fetched r).sp = s.sp := rfl
@[simp] theorem State.fetched_pc (s : State) (r : Byte) : (s.fetched r).pc = s.pc + 2 := rfl
@[simp] theorem State.fetched_delayTimer (s : State) (r : Byte) : (s.fetched r).delayTimer = s.delayTimer := rfl
@[simp] theorem State.fetched_soundTimer (s : State) (r : Byte) : (s.fetched r).soundTimer = s.soundTimer := rfl
@[simp] theorem State.fetched_keyboard (s : State) (r : Byte) : (s.fetched r).keyboard = s.keyboard := rfl
@[simp] theorem State.fetched_framebuffer (s : State) (r : Byte) : (s.fetched r).framebuffer = s.framebuffer := rfl
@[simp] theorem State.fetched_awaitingKey (s : State) (r : Byte) : (s.fetched r).awaitingKey = s.awaitingKey := rfl
@[simp] theorem State.fetched_lastTick (s : State) (r : Byte) : (s.fetched r).lastTick = s.lastTick := rfl
@[simp] theorem State.fetched_error (s : State) (r : Byte) : (s.fetched r).error = s.error := rfl
@[simp] theorem State.fetched_reply (s : State) (r : Byte) : (s.fetched r).reply = s.reply := rfl
@[simp] theorem State.fetched_session (s : State) (r : Byte) : (s.fetched r).session = s.session := rfl
@[simp] theorem State.fetched_rnd (s : State) (r : Byte) : (s.fetched r).rnd = r := rfl
@[simp] theorem State.fetched_inputs (s : State) (r : Byte) : (s.fetched r).inputs = s.inputs := rfl
@[simp] theorem State.fetched_inputIndex (s : State) (r : Byte) : (s.fetched r).inputIndex = s.inputIndex := rfl
@[simp] theorem State.fetched_getV (s : State) (r : Byte) (z : Nibble) : (s.fetched r).getV z = s.getV z := rfl

/-! `State.afterDraw` -/

@[simp] theorem State.afterDraw_mem (s : State) (d : Framebuffer × Bool) : (s.afterDraw d).mem = s.mem := rfl
@[simp] theorem State.afterDraw_i (s : State) (d : Framebuffer × Bool) : (s.afterDraw d).i = s.i := rfl
@[simp] theorem State.afterDraw_stack (s : State) (d : Framebuffer × Bool) : (s.afterDraw d).stack = s.stack := rfl
@[simp] theorem State.afterDraw_sp (s : State) (d : Framebuffer × Bool) : (s.afterDraw d).sp = s.sp := rfl
@[simp] theorem State.afterDraw_pc (s : State) (d : Framebuffer × Bool) : (s.afterDraw d).pc = s.pc := rfl
@[simp] theorem State.afterDraw_delayTimer (s : State) (d : Framebuffer × Bool) : (s.afterDraw d).delayTimer = s.delayTimer := rfl
@[simp] theorem State.afterDraw_soundTimer (s : State) (d : Framebuffer × Bool) : (s.afterDraw d).soundTimer = s.soundTimer := rfl
@[simp] theorem State.afterDraw_keyboard (s : State) (d : Framebuffer × Bool) : (s.afterDraw d).keyboard = s.keyboard := rfl
@[simp] theorem State.afterDraw_framebuffer (s : State) (d : Framebuffer × Bool) : (s.afterDraw d).framebuffer = d.1 := rfl
@[simp] theorem State.afterDraw_awaitingKey (s : State) (d : Framebuffer × Bool) : (s.afterDraw d).awaitingKey = s.awaitingKey := rfl
@[simp] theorem State.afterDraw_lastTick (s : State) (d : Framebuffer × Bool) : (s.afterDraw d).lastTick = s.lastTick := rfl
@[simp] theorem State.afterDraw_error (s : State) (d : Framebuffer × Bool) : (s.afterDraw d).error = s.error := rfl
@[simp] theorem State.afterDraw_reply (s : State) (d : Framebuffer × Bool) : (s.afterDraw d).reply = s.reply := rfl
@[simp] theorem State.afterDraw_session (s : State) (d : Framebuffer × Bool) : (s.afterDraw d).session = s.session := rfl
@[simp] theorem State.afterDraw_rnd (s : State) (d : Framebuffer × Bool) : (s.afterDraw d).rnd = s.rnd := rfl
@[simp] theorem State.afterDraw_inputs (s : State) (d : Framebuffer × Bool) : (s.afterDraw d).inputs = s.inputs := rfl
@[simp] theorem State.afterDraw_inputIndex (s : State) (d : Framebuffer × Bool) : (s.afterDraw d).inputIndex = s.inputIndex := rfl

/-! `State.setLogic` -/

@[simp] theorem State.setLogic_mem (s : State) (c : Bool) (x : Nibble) (r : Byte) : (s.setLogic c x r).mem = s.mem := by
  cases c <;> rfl
@[simp] theorem State.setLogic_i (s : State) (c : Bool) (x : Nibble) (r : Byte) : (s.setLogic c x r).i = s.i := by
  cases c <;> rfl
@[simp] theorem State.setLogic_stack (s : State) (c : Bool) (x : Nibble) (r : Byte) : (s.setLogic c x r).stack = s.stack := by
  cases c <;> rfl
@[simp] theorem State.setLogic_sp (s : State) (c : Bool) (x : Nibble) (r : Byte) : (s.setLogic c x r).sp = s.sp := by
  cases c <;> rfl
@[simp] theorem State.setLogic_pc (s : State) (c : Bool) (x : Nibble) (r : Byte) : (s.setLogic c x r).pc = s.pc := by
  cases c <;> rfl
@[simp] theorem State.setLogic_delayTimer (s : State) (c : Bool) (x : Nibble) (r : Byte) : (s.setLogic c x r).delayTimer = s.delayTimer := by
  cases c <;> rfl
@[simp] theorem State.setLogic_soundTimer (s : State) (c : Bool) (x : Nibble) (r : Byte) : (s.setLogic c x r).soundTimer = s.soundTimer := by
  cases c <;> rfl
@[simp] theorem State.setLogic_keyboard (s : State) (c : Bool) (x : Nibble) (r : Byte) : (s.setLogic c x r).keyboard = s.keyboard := by
  cases c <;> rfl
@[simp] theorem State.setLogic_framebuffer (s : State) (c : Bool) (x : Nibble) (r : Byte) : (s.setLogic c x r).framebuffer = s.framebuffer := by
  cases c <;> rfl
@[simp] theorem State.setLogic_awaitingKey (s : State) (c : Bool) (x : Nibble) (r : Byte) : (s.setLogic c x r).awaitingKey = s.awaitingKey := by
  cases c <;> rfl
@[simp] theorem State.setLogic_lastTick (s : State) (c : Bool) (x : Nibble) (r : Byte) : (s.setLogic c x r).lastTick = s.lastTick := by
  cases c <;> rfl
@[simp] theorem State.setLogic_error (s : State) (c : Bool) (x : Nibble) (r : Byte) : (s.setLogic c x r).error = s.error := by
  cases c <;> rfl
@[simp] theorem State.setLogic_reply (s : State) (c : Bool) (x : Nibble) (r : Byte) : (s.setLogic c x r).reply = s.reply := by
  cases c <;> rfl
@[simp] theorem State.setLogic_session (s : State) (c : Bool) (x : Nibble) (r : Byte) : (s.setLogic c x r).session = s.session := by
  cases c <;> rfl
@[simp] theorem State.setLogic_rnd (s : State) (c : Bool) (x : Nibble) (r : Byte) : (s.setLogic c x r).rnd = s.rnd := by
  cases c <;> rfl
@[simp] theorem State.setLogic_inputs (s : State) (c : Bool) (x : Nibble) (r : Byte) : (s.setLogic c x r).inputs = s.inputs := by
  cases c <;> rfl
@[simp] theorem State.setLogic_inputIndex (s : State) (c : Bool) (x : Nibble) (r : Byte) : (s.setLogic c x r).inputIndex = s.inputIndex := by
  cases c <;> rfl

/-! Registers under register writes (10_state R32). -/

@[simp] theorem State.getV_setV_same (s : State) (x : Nibble) (b : Byte) : (s.setV x b).getV x = b := by
  simp [State.getV, State.setV]

theorem State.getV_setV_ne (s : State) {x z : Nibble} (b : Byte) (h : z ≠ x) : (s.setV x b).getV z = s.getV z := by
  have h' : x.toNat ≠ z.toNat := fun e => h (BitVec.eq_of_toNat_eq e.symm)
  simp [State.getV, State.setV, h']

theorem State.getV_setV (s : State) (x z : Nibble) (b : Byte) :
    (s.setV x b).getV z = if z = x then b else s.getV z := by
  by_cases h : z = x
  · subst h; simp
  · simp [State.getV_setV_ne s b h, h]

theorem State.getV_setVF (s : State) (z : Nibble) (b : Byte) :
    (s.setVF b).getV z = if z = 0xF#4 then b else s.getV z := State.getV_setV s _ z b

/-- The flag is what VF holds, whatever the destination (00_scope R13). -/
@[simp] theorem State.setResult_flag (s : State) (x : Nibble) (r : Byte) (f : Bool) :
    (s.setResult x r f).getV 0xF#4 = b2n f := by
  simp [State.setResult, State.getV_setVF]

theorem State.getV_setResult (s : State) (x z : Nibble) (r : Byte) (f : Bool) :
    (s.setResult x r f).getV z = if z = 0xF#4 then b2n f else if z = x then r else s.getV z := by
  simp [State.setResult, State.getV_setVF, State.getV_setV]

theorem State.getV_setLogic (s : State) (c : Bool) (x z : Nibble) (r : Byte) :
    (s.setLogic c x r).getV z = if c = true ∧ z = 0xF#4 then 0#8 else if z = x then r else s.getV z := by
  cases c <;> simp [State.setLogic, State.getV_setVF, State.getV_setV]

theorem State.getV_afterDraw (s : State) (d : Framebuffer × Bool) (z : Nibble) :
    (s.afterDraw d).getV z = if z = 0xF#4 then b2n d.2 else s.getV z := by
  rw [State.afterDraw, State.getV_setVF]
  rfl

/-- Two states with equal registers and equal other fields are equal; `getV` sees all sixteen registers. -/
theorem State.v_ext {v w : Vector Byte 16} (h : ∀ x : Nibble, v[x.toNat]'x.isLt = w[x.toNat]'x.isLt) : v = w := by
  apply Vector.ext
  intro k hk
  have := h (BitVec.ofNat 4 k)
  simpa [Nat.mod_eq_of_lt hk] using this

end Sys2Proof.Machine
end

