-- ==== Sys2Proof/Laws/Ops.lean ====
section
/-! SUPPORT. For each shared operation, what it can do, said once: memory, blocks, fetch, stack, framebuffer, timers, keyboard,
loader. The provers cite these instead of unfolding the operations. -/

namespace Sys2Proof.Machine

/-! ## Memory: reading and writing one byte -/

theorem Memory.read_filter (m : Memory) (a b : Nat) (h : b ≠ a) :
    Memory.read (m.filter (fun c => c.1 ≠ a)) b = Memory.read m b := by
  induction m with
  | nil => rfl
  | cons c rest ih =>
    obtain ⟨k, w⟩ := c
    by_cases hk : k = a
    · subst hk
      simp only [List.filter, ne_eq, not_true, decide_false, Memory.read, Ne.symm h, if_false]
      exact ih
    · simp only [List.filter, ne_eq, hk, not_false_eq_true, decide_true, Memory.read]
      split
      · rfl
      · exact ih

theorem Memory.read_insert (m : Memory) (a b : Nat) (v : Byte) (h : ∀ c ∈ m, c.1 ≠ a) :
    Memory.read (Memory.insert a v m) b = if b = a then v else Memory.read m b := by
  induction m with
  | nil =>
    by_cases hv : v = Memory.unlisted a
    · by_cases hb : b = a
      · subst hb; simp [Memory.insert, hv, Memory.read]
      · simp [Memory.insert, hv, Memory.read, hb]
    · by_cases hb : b = a
      · subst hb; simp [Memory.insert, hv, Memory.read]
      · simp [Memory.insert, hv, Memory.read, hb, Ne.symm hb]
  | cons c rest ih =>
    obtain ⟨k, w⟩ := c
    have hk : k ≠ a := h (k, w) (by simp)
    have hr : ∀ c ∈ rest, c.1 ≠ a := fun c hc => h c (by simp [hc])
    have hun : ∀ m : Memory, (∀ c ∈ m, c.1 ≠ a) → Memory.read m a = Memory.unlisted a := by
      intro m hm
      induction m with
      | nil => rfl
      | cons d ds ihd =>
        obtain ⟨p, q⟩ := d
        have : p ≠ a := hm (p, q) (by simp)
        simp only [Memory.read, this, if_false]
        exact ihd (fun c hc => hm c (by simp [hc]))
    unfold Memory.insert
    by_cases hlt : a < k
    · by_cases hv : v = Memory.unlisted a
      · by_cases hb : b = a
        · subst hb; simp [hlt, hv, hun _ h]
        · simp [hlt, hv, hb]
      · by_cases hb : b = a
        · subst hb; simp [hlt, hv, Memory.read]
        · simp [hlt, hv, Memory.read, hb, Ne.symm hb]
    · simp only [hlt, if_false, Memory.read, ih hr]
      by_cases hb : b = a
      · subst hb; simp [hk]
      · simp [hb]

theorem Memory.filter_no_key (m : Memory) (a : Nat) : ∀ c ∈ m.filter (fun c => c.1 ≠ a), c.1 ≠ a := by
  intro c hc
  simpa using (List.mem_filter.1 hc).2

/-- A write changes that byte only (20_memory R62). -/
theorem Memory.read_write (m : Memory) (a b : Nat) (v : Byte) :
    Memory.read (Memory.write m a v) b = if b = a then v else Memory.read m b := by
  rw [Memory.write, Memory.read_insert _ _ _ _ (Memory.filter_no_key m a)]
  by_cases h : b = a
  · simp [h]
  · simp only [h, if_false]
    exact Memory.read_filter m a b h

@[simp] theorem Memory.read_write_same (m : Memory) (a : Nat) (v : Byte) :
    Memory.read (Memory.write m a v) a = v := by simp [Memory.read_write]

theorem Memory.read_write_ne (m : Memory) {a b : Nat} (v : Byte) (h : b ≠ a) :
    Memory.read (Memory.write m a v) b = Memory.read m b := by simp [Memory.read_write, h]

/-! ## Memory: the canonical form -/

theorem Memory.mem_insert {m : Memory} {a : Nat} {v : Byte} {c : Host.Cell} (h : c ∈ Memory.insert a v m) :
    c ∈ m ∨ (c = (a, v) ∧ v ≠ Memory.unlisted a) := by
  induction m with
  | nil =>
    simp only [Memory.insert] at h
    split at h
    · simp at h
    · simp at h; exact .inr ⟨h, ‹_›⟩
  | cons d rest ih =>
    obtain ⟨k, w⟩ := d
    simp only [Memory.insert] at h
    split at h
    · split at h
      · exact .inl h
      · rcases List.mem_cons.1 h with rfl | h
        · exact .inr ⟨rfl, ‹_›⟩
        · exact .inl h
    · rcases List.mem_cons.1 h with rfl | h
      · simp
      · rcases ih h with h | h
        · exact .inl (List.mem_cons_of_mem _ h)
        · exact .inr h

theorem Memory.pairwise_insert {m : Memory} {a : Nat} {v : Byte} (hp : m.Pairwise (fun p q => p.1 < q.1))
    (ha : ∀ c ∈ m, c.1 ≠ a) : (Memory.insert a v m).Pairwise (fun p q => p.1 < q.1) := by
  induction m with
  | nil => simp only [Memory.insert]; split <;> simp
  | cons d rest ih =>
    obtain ⟨k, w⟩ := d
    have hk : k ≠ a := ha (k, w) (by simp)
    rw [List.pairwise_cons] at hp
    simp only [Memory.insert]
    split
    · split
      · exact List.pairwise_cons.2 hp
      · refine List.pairwise_cons.2 ⟨?_, List.pairwise_cons.2 hp⟩
        intro c hc
        rcases List.mem_cons.1 hc with rfl | hc
        · assumption
        · exact Nat.lt_trans ‹a < k› (hp.1 c hc)
    · refine List.pairwise_cons.2 ⟨?_, ih hp.2 (fun c hc => ha c (by simp [hc]))⟩
      intro c hc
      rcases Memory.mem_insert hc with hc | ⟨rfl, -⟩
      · exact hp.1 c hc
      · simp only; omega

/-- A write of an address of the space keeps the canonical form. -/
theorem Memory.wf_write {m : Memory} (hm : m.wf) {a : Nat} (ha : a < Config.memSize) (v : Byte) :
    (Memory.write m a v).wf := by
  refine ⟨Memory.pairwise_insert (hm.1.filter _) (Memory.filter_no_key m a), fun c hc => ?_⟩
  rcases Memory.mem_insert hc with hc | ⟨rfl, hv⟩
  · exact hm.2 c (List.mem_of_mem_filter hc)
  · exact ⟨ha, hv⟩

theorem Memory.wf_nil : Memory.wf [] := by simp [Memory.wf]

/-- The memory of the reset state is in canonical form. -/
theorem Memory.wf_reset : State.reset.mem.wf := Memory.wf_nil

/-! ## Blocks (20_memory R67) -/

theorem Memory.outOfRange_none {a n : Nat} : Memory.outOfRange a n = none ↔ n = 0 ∨ a + n ≤ Config.memSize := by
  unfold Memory.outOfRange
  split
  · rename_i h; simp; omega
  · rename_i h; simp; omega

theorem Memory.outOfRange_some {a n hi : Nat} :
    Memory.outOfRange a n = some hi ↔ n ≠ 0 ∧ Config.memSize ≤ a + n - 1 ∧ hi = a + n - 1 := by
  unfold Memory.outOfRange
  split
  · rename_i h; simp only [Option.some.injEq]; exact ⟨fun e => ⟨h.1, h.2, e.symm⟩, fun e => e.2.2.symm⟩
  · rename_i h; simp only [reduceCtorEq, false_iff]; exact fun e => h ⟨e.1, e.2.1⟩

@[simp] theorem Memory.bytes_length (m : Memory) (a n : Nat) : (Memory.bytes m a n).length = n := by
  induction n generalizing a with
  | zero => rfl
  | succ n ih => simp [Memory.bytes, ih]

theorem Memory.getElem_bytes (m : Memory) (a n k : Nat) (h : k < (Memory.bytes m a n).length) :
    (Memory.bytes m a n)[k] = Memory.read m (a + k) := by
  induction n generalizing a k with
  | zero => simp at h
  | succ n ih =>
    cases k with
    | zero => rfl
    | succ k =>
      simp only [Memory.bytes, List.getElem_cons_succ, ih]
      congr 1
      omega

/-- What a block write leaves at every address: the block's bytes inside it, the old byte elsewhere. -/
theorem Memory.read_writeBytes (m : Memory) (a : Nat) (bs : List Byte) (b : Nat) :
    Memory.read (Memory.writeBytes m a bs) b =
      if a ≤ b then (bs[b - a]?).getD (Memory.read m b) else Memory.read m b := by
  induction bs generalizing m a with
  | nil => simp [Memory.writeBytes]
  | cons x xs ih =>
    simp only [Memory.writeBytes, ih, Memory.read_write]
    by_cases h1 : b = a
    · subst h1; simp
    · by_cases h2 : a ≤ b
      · have h3 : a + 1 ≤ b := by omega
        obtain ⟨d, hd⟩ : ∃ d, b - a = d + 1 := ⟨b - a - 1, by omega⟩
        have hd' : b - (a + 1) = d := by omega
        simp [h1, h2, h3, hd, hd']
      · have h3 : ¬ a + 1 ≤ b := by omega
        simp [h1, h2, h3]

theorem Memory.wf_writeBytes {m : Memory} (hm : m.wf) {a : Nat} {bs : List Byte} (h : bs = [] ∨ a + bs.length ≤ Config.memSize) :
    (Memory.writeBytes m a bs).wf := by
  induction bs generalizing m a with
  | nil => exact hm
  | cons x xs ih =>
    have h' : a + (x :: xs).length ≤ Config.memSize := by simpa using h
    simp only [List.length_cons] at h'
    exact ih (Memory.wf_write hm (by omega) x) (.inr (by omega))

/-- A block read answers all the bytes, or names the highest address where that lies above 0xFFF. -/
theorem Memory.readBlock_ok {m : Memory} {a n : Nat} {bs : List Byte} :
    m.readBlock a n = .ok bs ↔ (n = 0 ∨ a + n ≤ Config.memSize) ∧ bs = Memory.bytes m a n := by
  unfold Memory.readBlock
  cases h : Memory.outOfRange a n with
  | none => simp [← Memory.outOfRange_none, h, eq_comm]
  | some hi => simp [← Memory.outOfRange_none, h]

theorem Memory.readBlock_error {m : Memory} {a n hi : Nat} :
    m.readBlock a n = .error hi ↔ n ≠ 0 ∧ Config.memSize ≤ a + n - 1 ∧ hi = a + n - 1 := by
  unfold Memory.readBlock
  rw [← Memory.outOfRange_some]
  cases h : Memory.outOfRange a n <;> simp

/-- A block write answers the memory with all bytes written, or names the highest address where that lies above 0xFFF. -/
theorem Memory.writeBlock_ok {m m' : Memory} {a : Nat} {bs : List Byte} :
    m.writeBlock a bs = .ok m' ↔ (bs.length = 0 ∨ a + bs.length ≤ Config.memSize) ∧ m' = Memory.writeBytes m a bs := by
  unfold Memory.writeBlock
  cases h : Memory.outOfRange a bs.length with
  | none => simp only [← Memory.outOfRange_none, h, Except.ok.injEq, true_and]; exact eq_comm
  | some hi =>
    have : ¬ (bs.length = 0 ∨ a + bs.length ≤ Config.memSize) := by rw [← Memory.outOfRange_none, h]; simp
    simp only [reduceCtorEq, this, false_and]

theorem Memory.writeBlock_error {m : Memory} {a hi : Nat} {bs : List Byte} :
    m.writeBlock a bs = .error hi ↔ bs.length ≠ 0 ∧ Config.memSize ≤ a + bs.length - 1 ∧ hi = a + bs.length - 1 := by
  unfold Memory.writeBlock
  rw [← Memory.outOfRange_some]
  cases h : Memory.outOfRange a bs.length <;> simp

/-- The block write of FX33 and FX55 keeps the canonical form. -/
theorem Memory.wf_writeBlock {m m' : Memory} (hm : m.wf) {a : Nat} {bs : List Byte} (h : m.writeBlock a bs = .ok m') : m'.wf := by
  obtain ⟨hr, rfl⟩ := Memory.writeBlock_ok.1 h
  exact Memory.wf_writeBytes hm (hr.imp (fun h => List.length_eq_zero_iff.1 h) id)

/-- The fetch of 20_memory R63. -/
theorem Memory.fetch16_ok {m : Memory} {a : Nat} {op : Word} :
    m.fetch16 a = .ok op ↔ a + 1 ≤ 0xFFF ∧ op = wordOfBytes (Memory.read m a) (Memory.read m (a + 1)) := by
  unfold Memory.fetch16 Config.memSize
  split
  · rename_i h; simp; omega
  · rename_i h; simp only [Except.ok.injEq]; exact ⟨fun e => ⟨by omega, e.symm⟩, fun e => e.2.symm⟩

theorem Memory.fetch16_error {m : Memory} {a hi : Nat} : m.fetch16 a = .error hi ↔ 0xFFF < a + 1 ∧ hi = a + 1 := by
  unfold Memory.fetch16 Config.memSize
  split
  · rename_i h; simp only [Except.error.injEq]; exact ⟨fun e => ⟨by omega, e.symm⟩, fun e => e.2.symm⟩
  · rename_i h; simp; omega

/-! ## The Loader's memory (70_reset_and_hazards R351) -/

theorem Memory.mem_ofProgram {a : Nat} {bs : List Byte} {c : Host.Cell} (h : c ∈ Memory.ofProgram a bs) :
    a ≤ c.1 ∧ c.1 < a + bs.length ∧ c.2 ≠ Memory.unlisted c.1 := by
  induction bs generalizing a with
  | nil => simp [Memory.ofProgram] at h
  | cons b bs ih =>
    simp only [Memory.ofProgram] at h
    simp only [List.length_cons]
    split at h
    · have := ih h; exact ⟨by omega, by omega, this.2.2⟩
    · rcases List.mem_cons.1 h with rfl | h
      · exact ⟨Nat.le_refl _, by simp only; omega, ‹_›⟩
      · have := ih h; exact ⟨by omega, by omega, this.2.2⟩

theorem Memory.wf_ofProgram {a : Nat} {bs : List Byte} (h : a + bs.length ≤ Config.memSize) : (Memory.ofProgram a bs).wf := by
  refine ⟨?_, fun c hc => ?_⟩
  · clear h
    induction bs generalizing a with
    | nil => exact List.Pairwise.nil
    | cons b bs ih =>
      simp only [Memory.ofProgram]
      split
      · exact ih
      · refine List.pairwise_cons.2 ⟨fun c hc => ?_, ih⟩
        have := (Memory.mem_ofProgram hc).1
        simp only; omega
  · have := Memory.mem_ofProgram hc
    exact ⟨by omega, this.2.2⟩

theorem Memory.read_ofProgram_below (a b : Nat) (bs : List Byte) (h : b < a) :
    Memory.read (Memory.ofProgram a bs) b = Memory.unlisted b := by
  induction bs generalizing a with
  | nil => rfl
  | cons x xs ih =>
    simp only [Memory.ofProgram]
    split
    · exact ih (a + 1) (by omega)
    · simp only [Memory.read, show ¬ a = b by omega, if_false]
      exact ih (a + 1) (by omega)

/-- The Loader's memory: the program's bytes where they stand, what an unlisted address reads as elsewhere. -/
theorem Memory.read_ofProgram (a b : Nat) (bs : List Byte) :
    Memory.read (Memory.ofProgram a bs) b =
      if a ≤ b then (bs[b - a]?).getD (Memory.unlisted b) else Memory.unlisted b := by
  induction bs generalizing a with
  | nil => simp [Memory.ofProgram, Memory.read]
  | cons x xs ih =>
    have tail : b ≠ a → Memory.read (Memory.ofProgram (a + 1) xs) b =
        if a ≤ b then ((x :: xs)[b - a]?).getD (Memory.unlisted b) else Memory.unlisted b := by
      intro hb
      rw [ih]
      by_cases h2 : a ≤ b
      · obtain ⟨d, hd⟩ : ∃ d, b - a = d + 1 := ⟨b - a - 1, by omega⟩
        have hd' : b - (a + 1) = d := by omega
        simp [h2, show a + 1 ≤ b by omega, hd, hd']
      · simp [h2, show ¬ a + 1 ≤ b by omega]
    simp only [Memory.ofProgram]
    split
    · rename_i hx
      by_cases hb : b = a
      · subst hb
        rw [Memory.read_ofProgram_below _ _ _ (Nat.lt_succ_self _)]
        simp [hx]
      · exact tail hb
    · by_cases hb : b = a
      · subst hb; simp [Memory.read]
      · simp only [Memory.read, Ne.symm hb, if_false]
        exact tail hb

/-! ## Return stack -/

/-- Everything a push can do (40_flow R134). -/
theorem State.push_some {s t : State} {a : Word} (h : s.push a = some t) :
    ∃ hs : s.sp.val < 16, t = { s with stack := s.stack.set s.sp.val a hs, sp := ⟨s.sp.val + 1, Nat.succ_lt_succ hs⟩ } := by
  unfold State.push at h
  split at h
  · exact ⟨‹_›, (Option.some.inj h).symm⟩
  · cases h

theorem State.push_none {s : State} {a : Word} : s.push a = none ↔ s.sp.val = 16 := by
  unfold State.push Config.stackDepth
  have := s.sp.isLt
  split
  · rename_i h; simp; omega
  · rename_i h; simp; omega

/-- Everything a pop can do (40_flow R132). -/
theorem State.pop_some {s t : State} {a : Word} (h : s.pop = some (a, t)) :
    ∃ (_ : 0 < s.sp.val) (hj : s.sp.val - 1 < 16) (hk : s.sp.val - 1 < 17),
      a = s.stack[s.sp.val - 1] ∧ t = { s with sp := ⟨s.sp.val - 1, hk⟩ } := by
  unfold State.pop at h
  split at h
  · rename_i hs
    have := s.sp.isLt
    simp only [Option.some.injEq, Prod.mk.injEq] at h
    exact ⟨hs, by omega, by omega, h.1.symm, h.2.symm⟩
  · cases h

theorem State.pop_none {s : State} : s.pop = none ↔ s.sp.val = 0 := by
  unfold State.pop
  split
  · rename_i h; simp; omega
  · rename_i h; simp; omega

/-! ## Framebuffer -/

theorem Framebuffer.pixel_clear (r c : Nat) : Framebuffer.clear.pixel r c = false := by
  unfold Framebuffer.pixel Framebuffer.clear
  split <;> simp

/-- A toggle flips that pixel, if it is on the screen, and no other (44_display R265). -/
theorem Framebuffer.pixel_toggle (fb : Framebuffer) (r c p q : Nat) :
    (fb.toggle r c).pixel p q = if p = r ∧ q = c ∧ r < 32 ∧ c < 64 then !fb.pixel p q else fb.pixel p q := by
  unfold Framebuffer.toggle
  by_cases h : r < 32 ∧ c < 64
  · simp only [h, dif_pos, and_true]
    unfold Framebuffer.pixel
    by_cases hp : p < 32 ∧ q < 64
    · simp only [hp, true_and, dif_pos]
      by_cases h1 : p = r
      · subst h1
        by_cases h2 : q = c
        · subst h2; simp
        · simp [h2, Ne.symm h2]
      · simp [h1, Ne.symm h1]
    · have : ¬ (p = r ∧ q = c) := by rintro ⟨rfl, rfl⟩; exact hp h
      simp only [hp, dif_neg, not_false_eq_true, this, if_false]
  · simp only [h, dif_neg, not_false_eq_true]
    simp

/-- Equal pixels on the screen, equal framebuffers. -/
theorem Framebuffer.ext_pixel {f g : Framebuffer} (h : ∀ r c, r < 32 → c < 64 → f.pixel r c = g.pixel r c) : f = g := by
  apply Vector.ext
  intro r hr
  apply Vector.ext
  intro c hc
  have := h r c hr hc
  simpa [Framebuffer.pixel, hr, hc] using this

/-! ## Timers -/

theorem decTimer_toNat (t : Byte) : (decTimer t).toNat = t.toNat - 1 := by
  unfold decTimer
  split
  · rename_i h; subst h; rfl
  · rename_i h
    have : 1#8 ≤ t := by
      rw [BitVec.le_def]
      have : t.toNat ≠ 0 := fun e => h (BitVec.eq_of_toNat_eq e)
      simp; omega
    rw [BitVec.toNat_sub_of_le this]; rfl

theorem gateFires_iff (now last : Rat) : gateFires now last = true ↔ 1 ≤ (now - last) * 60 := by
  simp [gateFires, Config.timerHz]

/-! ## Keyboard -/

theorem getLsbD_keyMask (k : Key) (j : Nat) : (keyMask k).getLsbD j = decide (j = k.val) := by
  have := k.isLt
  simp only [keyMask, BitVec.getLsbD_shiftLeft, BitVec.getLsbD_one]
  by_cases h : j = k.val
  · subst h; simp [this]
  · simp only [h, decide_false]
    by_cases h2 : j < k.val
    · simp [h2]
    · have : ¬ (j - k.val = 0) := by omega
      simp [this]

@[simp] theorem State.keyUp_eq (s : State) (k : Key) : s.keyUp k = s.releaseKey k := rfl

/-- Everything a key-wait completion can do (43_timers_keys R234). -/
theorem State.keyWaitComplete_next {s t : State} {k : Key} (h : s.keyWaitComplete k = .next t) :
    ∃ op, s.mem.fetch16 s.pc.toNat = .ok op ∧
      t = { s.setV (opX op) (BitVec.ofNat 8 k.val) with awaitingKey := false, pc := s.pc + 2 } := by
  unfold State.keyWaitComplete at h
  split at h
  · cases h
  · rename_i op hop; exact ⟨op, hop, (Host.Outcome.next.inj h).symm⟩

/-- Everything a key-down can do (60_exceptions R317). -/
theorem State.keyDown_next {s t : State} {k : Key} (h : s.keyDown k = .next t) :
    (s.awaitingKey = false ∧ t = s.pressKey k) ∨
    (s.awaitingKey = true ∧ ∃ op, s.mem.fetch16 s.pc.toNat = .ok op ∧
      t = { (s.pressKey k).setV (opX op) (BitVec.ofNat 8 k.val) with awaitingKey := false, pc := s.pc + 2 }) := by
  unfold State.keyDown at h
  split at h
  · exact .inr ⟨‹_›, State.keyWaitComplete_next h⟩
  · rename_i hk; exact .inl ⟨by simpa using hk, (Host.Outcome.next.inj h).symm⟩

/-! ## The Loader -/

/-- Everything a load can do (70_reset_and_hazards R351, R352). -/
theorem State.load_cases (bytes : List Byte) (s : State) :
    (3584 < bytes.length ∧ s.load bytes = { s.raise (.programTooLarge bytes.length) with session := .failed }) ∨
    (bytes.length ≤ 3584 ∧ s.load bytes =
      { s with mem := Memory.ofProgram 0x200 bytes, pc := 0x200#16, sp := 0, session := .loaded, reply := .ok }) := by
  unfold State.load
  split
  · exact .inl ⟨‹_›, rfl⟩
  · rename_i hl; exact .inr ⟨Nat.le_of_not_lt hl, rfl⟩

/-- The reset state is a load of no bytes into a creation of zeros (log entry 6). -/
theorem State.reset_eq_load :
    State.reset = (State.created ⟨[], Vector.replicate 16 0#8, 0#16, Vector.replicate 16 0#16, 0, 0#16, 0#8, 0#8,
      Framebuffer.clear, 0, [], 0⟩).load [] := rfl

end Sys2Proof.Machine
end

