-- ==== Sys2Proof/Laws/Exec.lean ====
section
/-! SUPPORT. What the meanings with more than one outcome can do, the sprite blit row by row, and what one transition can do, each
said once. -/

namespace Sys2Proof.Machine

/-! ## The parameters at their defaults (00_scope R7) -/

@[simp] theorem Params.sysPolicy_eq : Params.sysPolicy = .fault := rfl
@[simp] theorem Params.shiftSource_eq : Params.shiftSource = .vx := rfl
@[simp] theorem Params.logicClearsVF_eq : Params.logicClearsVF = false := rfl
@[simp] theorem Params.loadStoreAdvancesI_eq : Params.loadStoreAdvancesI = false := rfl
@[simp] theorem Params.fontIndexMask_eq : Params.fontIndexMask = 0x0F#8 := rfl
@[simp] theorem Params.jumpOffsetReg_eq : Params.jumpOffsetReg = .v0 := rfl
@[simp] theorem Params.timerPhase_eq : Params.timerPhase = .before := rfl
@[simp] theorem Params.iWidth_eq : Params.iWidth = 16 := rfl

@[simp] theorem State.shiftOperand_vx (s : State) (x y : Nibble) : s.shiftOperand .vx x y = s.getV x := rfl
@[simp] theorem State.shiftOperand_vy (s : State) (x y : Nibble) : s.shiftOperand .vy x y = s.getV y := rfl
@[simp] theorem State.jumpOffset_v0 (s : State) (nnn : Addr12) : s.jumpOffset .v0 nnn = s.getV 0x0#4 := rfl
@[simp] theorem State.jumpOffset_vx (s : State) (nnn : Addr12) : s.jumpOffset .vx nnn = s.getV (nnn.extractLsb' 8 4) := rfl
@[simp] theorem State.sysCall_fault (s : State) (nnn : Addr12) :
    s.sysCall .fault nnn = s.raise (.unsupportedOpcode (encode (.sys nnn)) s.pcF) := rfl
@[simp] theorem State.sysCall_nop (s : State) (nnn : Addr12) : s.sysCall .nop nnn = s := rfl
@[simp] theorem indexAfterBlock_false (i : Word) (x : Nibble) : indexAfterBlock false i x = i := rfl
@[simp] theorem bcdDigits_length (b : Byte) : (bcdDigits b).length = 3 := rfl
@[simp] theorem rowBits_length (b : Byte) : (rowBits b).length = 8 := rfl

/-- Bit `c` of a row, counted from the left, is `row[7 - c]` (44_display R264). -/
theorem getD_rowBits (row : Byte) (c : Nat) : ((rowBits row)[c]?).getD false = (decide (c < 8) && row.getLsbD (7 - c)) := by
  by_cases h : c < 8
  · interval_cases c <;> rfl
  · rw [List.getElem?_eq_none (by simp; omega)]
    simp [h]

@[simp] theorem State.firstV_length (s : State) (n : Nat) (h : n ≤ 16) : (s.firstV n).length = n := by
  simp [State.firstV, h]

theorem State.getElem_firstV (s : State) (n k : Nat) (h : k < (s.firstV n).length) :
    (s.firstV n)[k] = s.v[k]'(by simp [State.firstV] at h; omega) := by
  simp [State.firstV]

/-- What a block of register writes leaves in each register (42_index_memory R206). -/
theorem getElem_setVFrom (v : Vector Byte 16) (k : Nat) (bs : List Byte) (j : Nat) (h : j < 16) :
    (setVFrom v k bs)[j] = if k ≤ j then (bs[j - k]?).getD v[j] else v[j] := by
  induction bs generalizing v k with
  | nil => simp [setVFrom]
  | cons b bs ih =>
    rw [setVFrom, ih]
    by_cases h1 : j = k
    · subst h1; simp [show ¬ j + 1 ≤ j by omega]
    · have h1' : ¬ k = j := fun e => h1 e.symm
      by_cases h2 : k ≤ j
      · obtain ⟨d, hd⟩ : ∃ d, j - k = d + 1 := ⟨j - k - 1, by omega⟩
        have hd' : j - (k + 1) = d := by omega
        simp [h1', h2, show k + 1 ≤ j by omega, hd, hd']
      · simp [h1', h2, show ¬ k + 1 ≤ j by omega]

/-! ## Meanings with more than one outcome -/

/-- Everything RET can do (40_flow R132). -/
theorem execRet_cases (s : State) :
    (s.sp.val = 0 ∧ execRet s = .next (s.raise (.stackUnderflow (encode .ret) s.pcF))) ∨
    (∃ (_ : 0 < s.sp.val) (hj : s.sp.val - 1 < 16) (hk : s.sp.val - 1 < 17),
      execRet s = .next { s with sp := ⟨s.sp.val - 1, hk⟩, pc := s.stack[s.sp.val - 1] }) := by
  unfold execRet
  cases h : s.pop with
  | none => exact .inl ⟨State.pop_none.1 h, rfl⟩
  | some p =>
    obtain ⟨a, t⟩ := p
    obtain ⟨hs, hj, hk, rfl, rfl⟩ := State.pop_some h
    exact .inr ⟨hs, hj, hk, rfl⟩

/-- Everything CALL can do (40_flow R134). -/
theorem execCall_cases (nnn : Addr12) (s : State) :
    (s.sp.val = 16 ∧ execCall nnn s = .next (s.raise (.stackOverflow (encode (.call nnn)) s.pcF))) ∨
    (∃ hs : s.sp.val < 16, execCall nnn s =
      .next { s with stack := s.stack.set s.sp.val s.pc hs, sp := ⟨s.sp.val + 1, Nat.succ_lt_succ hs⟩, pc := addrOf nnn }) := by
  unfold execCall
  cases h : s.push s.pc with
  | none => exact .inl ⟨State.push_none.1 h, rfl⟩
  | some t =>
    obtain ⟨hs, rfl⟩ := State.push_some h
    exact .inr ⟨hs, rfl⟩

/-- Everything FX33 can do (42_index_memory R204). -/
theorem execLdBVx_cases (x : Nibble) (s : State) :
    (0xFFF < s.i.toNat + 2 ∧ execLdBVx x s = .next (s.raiseRange (s.i.toNat + 2) (.ldBVx x))) ∨
    (s.i.toNat + 2 ≤ 0xFFF ∧
      execLdBVx x s = .next { s with mem := s.mem.writeBytes s.i.toNat (bcdDigits (s.getV x)) }) := by
  unfold execLdBVx
  cases h : s.mem.writeBlock s.i.toNat (bcdDigits (s.getV x)) with
  | error hi =>
    obtain ⟨-, h2, rfl⟩ := Memory.writeBlock_error.1 h
    simp only [bcdDigits_length, Config.memSize] at h2
    exact .inl ⟨by omega, rfl⟩
  | ok m =>
    obtain ⟨h2, rfl⟩ := Memory.writeBlock_ok.1 h
    simp only [bcdDigits_length, Config.memSize] at h2
    exact .inr ⟨by omega, rfl⟩

/-- Everything FX55 can do (42_index_memory R205). -/
theorem execStRegs_cases (x : Nibble) (s : State) :
    (0xFFF < s.i.toNat + x.toNat ∧ execStRegs x s = .next (s.raiseRange (s.i.toNat + x.toNat) (.stRegs x))) ∨
    (s.i.toNat + x.toNat ≤ 0xFFF ∧
      execStRegs x s = .next { s with mem := s.mem.writeBytes s.i.toNat (s.firstV (x.toNat + 1)),
                                       i := indexAfterBlock Params.loadStoreAdvancesI s.i x }) := by
  have hx : x.toNat < 16 := x.isLt
  have hl : (s.firstV (x.toNat + 1)).length = x.toNat + 1 := State.firstV_length s _ (by omega)
  unfold execStRegs
  cases h : s.mem.writeBlock s.i.toNat (s.firstV (x.toNat + 1)) with
  | error hi =>
    obtain ⟨-, h2, rfl⟩ := Memory.writeBlock_error.1 h
    simp only [hl, Config.memSize] at h2 ⊢
    exact .inl ⟨by omega, rfl⟩
  | ok m =>
    obtain ⟨h2, rfl⟩ := Memory.writeBlock_ok.1 h
    simp only [hl, Config.memSize] at h2
    exact .inr ⟨by omega, rfl⟩

/-- Everything FX65 can do (42_index_memory R206). -/
theorem execLdRegs_cases (x : Nibble) (s : State) :
    (0xFFF < s.i.toNat + x.toNat ∧ execLdRegs x s = .next (s.raiseRange (s.i.toNat + x.toNat) (.ldRegs x))) ∨
    (s.i.toNat + x.toNat ≤ 0xFFF ∧
      execLdRegs x s = .next { s with v := setVFrom s.v 0 (s.mem.bytes s.i.toNat (x.toNat + 1)),
                                       i := indexAfterBlock Params.loadStoreAdvancesI s.i x }) := by
  unfold execLdRegs
  cases h : s.mem.readBlock s.i.toNat (x.toNat + 1) with
  | error hi =>
    obtain ⟨-, h2, rfl⟩ := Memory.readBlock_error.1 h
    simp only [Config.memSize] at h2
    exact .inl ⟨by omega, rfl⟩
  | ok bs =>
    obtain ⟨h2, rfl⟩ := Memory.readBlock_ok.1 h
    simp only [Config.memSize] at h2
    exact .inr ⟨by omega, rfl⟩

/-- Everything DXYN can do (44_display R261). -/
theorem execDrw_cases (x y n : Nibble) (s : State) :
    (n.toNat ≠ 0 ∧ 0xFFF < s.i.toNat + n.toNat - 1 ∧
      execDrw x y n s = .next (s.raiseRange (s.i.toNat + n.toNat - 1) (.drw x y n))) ∨
    ((n.toNat = 0 ∨ s.i.toNat + n.toNat - 1 ≤ 0xFFF) ∧
      execDrw x y n s = .next (s.afterDraw
        (drawSprite s.framebuffer (s.getV x).toNat (s.getV y).toNat (s.mem.bytes s.i.toNat n.toNat)))) := by
  unfold execDrw
  cases h : s.mem.readBlock s.i.toNat n.toNat with
  | error hi =>
    obtain ⟨h1, h2, rfl⟩ := Memory.readBlock_error.1 h
    simp only [Config.memSize] at h2
    exact .inl ⟨h1, by omega, rfl⟩
  | ok bs =>
    obtain ⟨h2, rfl⟩ := Memory.readBlock_ok.1 h
    simp only [Config.memSize] at h2
    exact .inr ⟨by omega, rfl⟩

/-! ## The sprite blit, one row (44_display R264, R265) -/

/-- The pixels one row leaves: those under a 1 bit, on the screen, flipped. -/
theorem pixel_drawBits (sy : Nat) (bits : List Bool) (sx : Nat) (acc : Framebuffer × Bool) (p q : Nat) (hsy : sy < 32) :
    (drawBits sy bits sx acc).1.pixel p q =
      (acc.1.pixel p q ^^ (decide (p = sy ∧ sx ≤ q ∧ q < 64) && (bits[q - sx]?).getD false)) := by
  induction bits generalizing sx acc with
  | nil => simp [drawBits]
  | cons bit bits ih =>
    unfold drawBits
    by_cases he : Config.fbW ≤ sx
    · have : ¬ (p = sy ∧ sx ≤ q ∧ q < 64) := by unfold Config.fbW at he; omega
      simp only [he, if_true, this, decide_false, Bool.false_and, Bool.xor_false]
    · have hsx : sx < 64 := by unfold Config.fbW at he; omega
      simp only [he, if_false]
      by_cases hq : q = sx
      · subst hq
        have h1 : ¬ (p = sy ∧ q + 1 ≤ q ∧ q < 64) := by omega
        cases bit
        · rw [if_neg (by simp), ih, decide_eq_false h1]; simp
        · rw [if_pos rfl, ih, decide_eq_false h1, Framebuffer.pixel_toggle]
          by_cases hp : p = sy <;> simp [hp, hsy, hsx]
      · have hd : decide (p = sy ∧ sx + 1 ≤ q ∧ q < 64) = decide (p = sy ∧ sx ≤ q ∧ q < 64) :=
          decide_eq_decide.2 (by omega)
        have hb : (decide (p = sy ∧ sx ≤ q ∧ q < 64) && (((bit :: bits)[q - sx]?).getD false)) =
            (decide (p = sy ∧ sx ≤ q ∧ q < 64) && ((bits[q - (sx + 1)]?).getD false)) := by
          by_cases h2 : sx ≤ q
          · obtain ⟨d, h3⟩ : ∃ d, q - sx = d + 1 := ⟨q - sx - 1, by omega⟩
            rw [h3, show q - (sx + 1) = d by omega]; simp
          · rw [decide_eq_false (by omega), Bool.false_and, Bool.false_and]
        cases bit
        · rw [if_neg (by simp), ih, hd, hb]
        · rw [if_pos rfl, ih, hd, hb, Framebuffer.pixel_toggle, if_neg (by simp [hq])]

/-- The collision one row finds: a pixel under a 1 bit, on the screen, that was on before the row was drawn. -/
theorem hit_drawBits (sy : Nat) (bits : List Bool) (sx : Nat) (acc : Framebuffer × Bool) :
    (drawBits sy bits sx acc).2 = true ↔
      acc.2 = true ∨ ∃ q, sx ≤ q ∧ q < 64 ∧ (bits[q - sx]?).getD false = true ∧ acc.1.pixel sy q = true := by
  induction bits generalizing sx acc with
  | nil => simp [drawBits]
  | cons bit bits ih =>
    unfold drawBits
    by_cases he : Config.fbW ≤ sx
    · simp only [he, if_true]
      refine ⟨.inl, ?_⟩
      rintro (h | ⟨q, h1, h2, -⟩)
      · exact h
      · unfold Config.fbW at he; omega
    · have hsx : sx < 64 := by unfold Config.fbW at he; omega
      simp only [he, if_false]
      have step : ∀ q, q ≠ sx → sx ≤ q → ((bit :: bits)[q - sx]?) = bits[q - (sx + 1)]? := by
        intro q h1 h2
        obtain ⟨d, h3⟩ : ∃ d, q - sx = d + 1 := ⟨q - sx - 1, by omega⟩
        rw [h3, show q - (sx + 1) = d by omega]; simp
      cases bit
      · rw [if_neg (by simp), ih]
        refine or_congr Iff.rfl ⟨?_, ?_⟩
        · rintro ⟨q, h1, h2, h3, h4⟩
          exact ⟨q, by omega, h2, by rw [step q (by omega) (by omega)]; exact h3, h4⟩
        · rintro ⟨q, h1, h2, h3, h4⟩
          by_cases hq : q = sx
          · subst hq; simp at h3
          · exact ⟨q, by omega, h2, by rw [← step q hq h1]; exact h3, h4⟩
      · rw [if_pos rfl, ih]
        simp only [Bool.or_eq_true, or_assoc]
        refine or_congr Iff.rfl ⟨?_, ?_⟩
        · rintro (h | ⟨q, h1, h2, h3, h4⟩)
          · exact ⟨sx, Nat.le_refl _, hsx, by simp, h⟩
          · rw [Framebuffer.pixel_toggle, if_neg (by omega)] at h4
            exact ⟨q, by omega, h2, by rw [step q (by omega) (by omega)]; exact h3, h4⟩
        · rintro ⟨q, h1, h2, h3, h4⟩
          by_cases hq : q = sx
          · subst hq; exact .inl h4
          · refine .inr ⟨q, by omega, h2, by rw [← step q hq h1]; exact h3, ?_⟩
            rw [Framebuffer.pixel_toggle, if_neg (by omega)]; exact h4

/-! ## One transition (30_encoding R95, 60_exceptions R319) -/

/-- Everything fetch, decode and execute can do, in the order of the checks (60_exceptions R309). -/
theorem State.cycle_cases (r : Byte) (s : State) :
    (0xFFF < s.pc.toNat + 1 ∧ s.cycle r = .next (s.raise (.memoryOutOfRange (s.pc.toNat + 1) none s.pc))) ∨
    (∃ op e, s.mem.fetch16 s.pc.toNat = .ok op ∧ decode op = .error e ∧
      s.cycle r = .next ((s.fetched r).raise (.unsupportedOpcode op s.pc))) ∨
    (∃ op i, s.mem.fetch16 s.pc.toNat = .ok op ∧ decode op = .ok i ∧ s.cycle r = exec i (s.fetched r)) := by
  unfold State.cycle
  cases h : s.mem.fetch16 s.pc.toNat with
  | error hi =>
    obtain ⟨h1, rfl⟩ := Memory.fetch16_error.1 h
    exact .inl ⟨h1, rfl⟩
  | ok op =>
    cases h2 : decode op with
    | error e => exact .inr (.inl ⟨op, e, rfl, h2, by simp [h2]⟩)
    | ok i => exact .inr (.inr ⟨op, i, rfl, h2, by simp [h2]⟩)

/-- Everything `step(now, rnd)` can do under the default parameters (30_encoding R95). -/
theorem State.hostStep_cases (now : Rat) (r : Byte) (s : State) :
    (s.session ≠ .loaded ∧ s.hostStep now r = .refused .noSession) ∨
    (s.session = .loaded ∧ s.awaitingKey = true ∧ s.hostStep now r = .next (s.raise .invalidState)) ∨
    (s.session = .loaded ∧ s.awaitingKey = false ∧
      s.hostStep now r = State.cycle r (({ s with reply := .ok } : State).timerGate now)) := by
  unfold State.hostStep
  cases h1 : s.session with
  | notLoaded => exact .inl ⟨nofun, rfl⟩
  | failed => exact .inl ⟨nofun, rfl⟩
  | loaded =>
    cases h2 : s.awaitingKey
    · exact .inr (.inr ⟨rfl, rfl, rfl⟩)
    · exact .inr (.inl ⟨rfl, rfl, rfl⟩)

/-- Everything a call of `load` can do: the Loader's effect on the first call, no transition on a later one (decision D25). -/
theorem State.hostLoad_cases (bytes : List Byte) (s : State) :
    (s.session = .notLoaded ∧ s.hostLoad bytes = .next (s.load bytes)) ∨
    (s.session ≠ .notLoaded ∧ s.hostLoad bytes = .refused .secondLoad) := by
  unfold State.hostLoad
  cases s.session with
  | notLoaded => exact .inl ⟨rfl, rfl⟩
  | loaded => exact .inr ⟨nofun, rfl⟩
  | failed => exact .inr ⟨nofun, rfl⟩

/-- A call of `load` that answers is the first one, and answers what the Loader leaves. -/
theorem State.hostLoad_next {bytes : List Byte} {s t : State} (h : s.hostLoad bytes = .next t) :
    s.session = .notLoaded ∧ t = s.load bytes := by
  rcases s.hostLoad_cases bytes with ⟨h1, e⟩ | ⟨_, e⟩ <;> rw [e] at h
  · exact ⟨h1, by cases h; rfl⟩
  · cases h

/-- Where the next operation comes from (log entry 1). -/
theorem State.takeInput_cases (s : State) :
    (∃ op rest, s.inputs = op :: rest ∧ s.takeInput = (op, { s with inputs := rest })) ∨
    (s.inputs = [] ∧ s.takeInput =
      (.step (Config.hostNow s.inputIndex) (Config.hostRnd s.inputIndex), { s with inputIndex := s.inputIndex + 1 })) := by
  unfold State.takeInput
  cases h : s.inputs with
  | nil => exact .inr ⟨rfl, rfl⟩
  | cons op rest => exact .inl ⟨op, rest, rfl, rfl⟩

/-- A step is the next operation, performed. -/
theorem step_eq (s : State) : step s = s.takeInput.2.perform s.takeInput.1 := rfl

end Sys2Proof.Machine
end

