-- ==== Sys2Proof/Laws/PerInstr.lean ====
section
/-! SUPPORT. The family TableRow: the word of each instruction lies in its row of spec/opcode_table.json, which the row's own mask
and match say. -/

namespace Sys2Proof.Laws

/-- The row's "mask" in spec/opcode_table.json. -/
def tableMask : Instr → Word
  | .cls => 0xFFFF#16
  | .ret => 0xFFFF#16
  | .sys _ => 0xF000#16
  | .jp _ => 0xF000#16
  | .call _ => 0xF000#16
  | .seImm _ _ => 0xF000#16
  | .sneImm _ _ => 0xF000#16
  | .seReg _ _ => 0xF00F#16
  | .ldImm _ _ => 0xF000#16
  | .addImm _ _ => 0xF000#16
  | .ldReg _ _ => 0xF00F#16
  | .orReg _ _ => 0xF00F#16
  | .andReg _ _ => 0xF00F#16
  | .xorReg _ _ => 0xF00F#16
  | .addReg _ _ => 0xF00F#16
  | .sub _ _ => 0xF00F#16
  | .shr _ _ => 0xF00F#16
  | .subn _ _ => 0xF00F#16
  | .shl _ _ => 0xF00F#16
  | .sneReg _ _ => 0xF00F#16
  | .ldI _ => 0xF000#16
  | .jpV0 _ => 0xF000#16
  | .rnd _ _ => 0xF000#16
  | .drw _ _ _ => 0xF000#16
  | .skp _ => 0xF0FF#16
  | .sknp _ => 0xF0FF#16
  | .ldVxDT _ => 0xF0FF#16
  | .ldVxK _ => 0xF0FF#16
  | .ldDTVx _ => 0xF0FF#16
  | .ldSTVx _ => 0xF0FF#16
  | .addIVx _ => 0xF0FF#16
  | .ldFVx _ => 0xF0FF#16
  | .ldBVx _ => 0xF0FF#16
  | .stRegs _ => 0xF0FF#16
  | .ldRegs _ => 0xF0FF#16

/-- The row's "match" in spec/opcode_table.json. -/
def tableMatch : Instr → Word
  | .cls => 0x00E0#16
  | .ret => 0x00EE#16
  | .sys _ => 0x0000#16
  | .jp _ => 0x1000#16
  | .call _ => 0x2000#16
  | .seImm _ _ => 0x3000#16
  | .sneImm _ _ => 0x4000#16
  | .seReg _ _ => 0x5000#16
  | .ldImm _ _ => 0x6000#16
  | .addImm _ _ => 0x7000#16
  | .ldReg _ _ => 0x8000#16
  | .orReg _ _ => 0x8001#16
  | .andReg _ _ => 0x8002#16
  | .xorReg _ _ => 0x8003#16
  | .addReg _ _ => 0x8004#16
  | .sub _ _ => 0x8005#16
  | .shr _ _ => 0x8006#16
  | .subn _ _ => 0x8007#16
  | .shl _ _ => 0x800E#16
  | .sneReg _ _ => 0x9000#16
  | .ldI _ => 0xA000#16
  | .jpV0 _ => 0xB000#16
  | .rnd _ _ => 0xC000#16
  | .drw _ _ _ => 0xD000#16
  | .skp _ => 0xE09E#16
  | .sknp _ => 0xE0A1#16
  | .ldVxDT _ => 0xF007#16
  | .ldVxK _ => 0xF00A#16
  | .ldDTVx _ => 0xF015#16
  | .ldSTVx _ => 0xF018#16
  | .addIVx _ => 0xF01E#16
  | .ldFVx _ => 0xF029#16
  | .ldBVx _ => 0xF033#16
  | .stRegs _ => 0xF055#16
  | .ldRegs _ => 0xF065#16

theorem fmtNNN_and (f : Nibble) (nnn : Addr12) : fmtNNN f nnn &&& 0xF000#16 = fmtNNN f 0#12 := by
  apply BitVec.eq_of_getLsbD_eq
  intro j hj
  rw [BitVec.getLsbD_and, getLsbD_fmtNNN, getLsbD_fmtNNN]
  interval_cases j <;> simp

theorem fmtXNN_and (f x : Nibble) (nn : Byte) : fmtXNN f x nn &&& 0xF000#16 = fmtNNN f 0#12 := by
  rw [fmtXNN_eq, fmtNNN_and]

theorem fmtXYN_and (f x y n : Nibble) : fmtXYN f x y n &&& 0xF000#16 = fmtNNN f 0#12 := by
  rw [fmtXYN_eq, fmtXNN_and]

theorem fmtXNN_and_sub (f x : Nibble) (nn : Byte) : fmtXNN f x nn &&& 0xF0FF#16 = fmtXNN f 0#4 nn := by
  apply BitVec.eq_of_getLsbD_eq
  intro j hj
  rw [BitVec.getLsbD_and, getLsbD_fmtXNN, getLsbD_fmtXNN]
  interval_cases j <;> simp

theorem fmtXYN_and_sub (f x y n : Nibble) : fmtXYN f x y n &&& 0xF00F#16 = fmtXYN f 0#4 0#4 n := by
  apply BitVec.eq_of_getLsbD_eq
  intro j hj
  rw [BitVec.getLsbD_and, fmtXYN_eq, fmtXYN_eq, getLsbD_fmtXNN, getLsbD_fmtXNN, getLsbD_nibbles, getLsbD_nibbles]
  interval_cases j <;> simp

namespace TableRow

/-- The instruction's word has the fixed bits of its table row (30_encoding R96). -/
def Statement (i : Instr) : Prop := encode i &&& tableMask i = tableMatch i

theorem cls : Statement .cls := rfl
theorem ret : Statement .ret := rfl
theorem sys (nnn : Addr12) : Statement (.sys nnn) := by
  simp only [Statement, encode, tableMask, tableMatch, fmtNNN_and]; rfl
theorem jp (nnn : Addr12) : Statement (.jp nnn) := by
  simp only [Statement, encode, tableMask, tableMatch, fmtNNN_and]; rfl
theorem call (nnn : Addr12) : Statement (.call nnn) := by
  simp only [Statement, encode, tableMask, tableMatch, fmtNNN_and]; rfl
theorem seImm (x : Nibble) (nn : Byte) : Statement (.seImm x nn) := by
  simp only [Statement, encode, tableMask, tableMatch, fmtXNN_and]; rfl
theorem sneImm (x : Nibble) (nn : Byte) : Statement (.sneImm x nn) := by
  simp only [Statement, encode, tableMask, tableMatch, fmtXNN_and]; rfl
theorem seReg (x y : Nibble) : Statement (.seReg x y) := by
  simp only [Statement, encode, tableMask, tableMatch, fmtXYN_and_sub]; rfl
theorem ldImm (x : Nibble) (nn : Byte) : Statement (.ldImm x nn) := by
  simp only [Statement, encode, tableMask, tableMatch, fmtXNN_and]; rfl
theorem addImm (x : Nibble) (nn : Byte) : Statement (.addImm x nn) := by
  simp only [Statement, encode, tableMask, tableMatch, fmtXNN_and]; rfl
theorem ldReg (x y : Nibble) : Statement (.ldReg x y) := by
  simp only [Statement, encode, tableMask, tableMatch, fmtXYN_and_sub]; rfl
theorem orReg (x y : Nibble) : Statement (.orReg x y) := by
  simp only [Statement, encode, tableMask, tableMatch, fmtXYN_and_sub]; rfl
theorem andReg (x y : Nibble) : Statement (.andReg x y) := by
  simp only [Statement, encode, tableMask, tableMatch, fmtXYN_and_sub]; rfl
theorem xorReg (x y : Nibble) : Statement (.xorReg x y) := by
  simp only [Statement, encode, tableMask, tableMatch, fmtXYN_and_sub]; rfl
theorem addReg (x y : Nibble) : Statement (.addReg x y) := by
  simp only [Statement, encode, tableMask, tableMatch, fmtXYN_and_sub]; rfl
theorem sub (x y : Nibble) : Statement (.sub x y) := by
  simp only [Statement, encode, tableMask, tableMatch, fmtXYN_and_sub]; rfl
theorem shr (x y : Nibble) : Statement (.shr x y) := by
  simp only [Statement, encode, tableMask, tableMatch, fmtXYN_and_sub]; rfl
theorem subn (x y : Nibble) : Statement (.subn x y) := by
  simp only [Statement, encode, tableMask, tableMatch, fmtXYN_and_sub]; rfl
theorem shl (x y : Nibble) : Statement (.shl x y) := by
  simp only [Statement, encode, tableMask, tableMatch, fmtXYN_and_sub]; rfl
theorem sneReg (x y : Nibble) : Statement (.sneReg x y) := by
  simp only [Statement, encode, tableMask, tableMatch, fmtXYN_and_sub]; rfl
theorem ldI (nnn : Addr12) : Statement (.ldI nnn) := by
  simp only [Statement, encode, tableMask, tableMatch, fmtNNN_and]; rfl
theorem jpV0 (nnn : Addr12) : Statement (.jpV0 nnn) := by
  simp only [Statement, encode, tableMask, tableMatch, fmtNNN_and]; rfl
theorem rnd (x : Nibble) (nn : Byte) : Statement (.rnd x nn) := by
  simp only [Statement, encode, tableMask, tableMatch, fmtXNN_and]; rfl
theorem drw (x y n : Nibble) : Statement (.drw x y n) := by
  simp only [Statement, encode, tableMask, tableMatch, fmtXYN_and]; rfl
theorem skp (x : Nibble) : Statement (.skp x) := by
  simp only [Statement, encode, tableMask, tableMatch, fmtXNN_and_sub]; rfl
theorem sknp (x : Nibble) : Statement (.sknp x) := by
  simp only [Statement, encode, tableMask, tableMatch, fmtXNN_and_sub]; rfl
theorem ldVxDT (x : Nibble) : Statement (.ldVxDT x) := by
  simp only [Statement, encode, tableMask, tableMatch, fmtXNN_and_sub]; rfl
theorem ldVxK (x : Nibble) : Statement (.ldVxK x) := by
  simp only [Statement, encode, tableMask, tableMatch, fmtXNN_and_sub]; rfl
theorem ldDTVx (x : Nibble) : Statement (.ldDTVx x) := by
  simp only [Statement, encode, tableMask, tableMatch, fmtXNN_and_sub]; rfl
theorem ldSTVx (x : Nibble) : Statement (.ldSTVx x) := by
  simp only [Statement, encode, tableMask, tableMatch, fmtXNN_and_sub]; rfl
theorem addIVx (x : Nibble) : Statement (.addIVx x) := by
  simp only [Statement, encode, tableMask, tableMatch, fmtXNN_and_sub]; rfl
theorem ldFVx (x : Nibble) : Statement (.ldFVx x) := by
  simp only [Statement, encode, tableMask, tableMatch, fmtXNN_and_sub]; rfl
theorem ldBVx (x : Nibble) : Statement (.ldBVx x) := by
  simp only [Statement, encode, tableMask, tableMatch, fmtXNN_and_sub]; rfl
theorem stRegs (x : Nibble) : Statement (.stRegs x) := by
  simp only [Statement, encode, tableMask, tableMatch, fmtXNN_and_sub]; rfl
theorem ldRegs (x : Nibble) : Statement (.ldRegs x) := by
  simp only [Statement, encode, tableMask, tableMatch, fmtXNN_and_sub]; rfl

end TableRow

end Sys2Proof.Laws
end

