-- ==== Sys2Proof/Tests/Slice0.lean ====
section
/-! SUPPORT. Small tests of one step each, their expected results taken from spec/95_test_vectors.md (the vector's id stands before
each) or worked out by hand from the rule named, and one witness per statement that has hypotheses. -/

namespace Sys2Proof.Tests

open Sys2Proof Sys2Proof.Machine

/-! ## Helpers -/

/-- The state an outcome holds, if it is a next state. -/
def nextOf : Host.Outcome State Fault Refusal → Option State
  | .next t => some t
  | .fault _ => none
  | .refused _ => none

/-- One `step(now, rnd)` on the word `op` placed at pc. -/
def runAt (now : Rat) (rnd : Byte) (op : Nat) (s : State) : Option State :=
  nextOf ((s.withFetchWord 16 op).perform (.step now rnd))

/-- The same at time 0 with `rnd = 0xA7`, where the gate does not open. -/
def run (op : Nat) (s : State) : Option State := runAt 0 0xA7#8 op s

/-- The reset state with some registers set. -/
def withV (l : List (Nibble × Byte)) : State := l.foldl (fun s p => s.setV p.1 p.2) State.reset

/-- Bytes put into memory. -/
def poke (a : Nat) (bs : List Byte) (s : State) : State := { s with mem := s.mem.writeBytes a bs }

/-- Pixels turned on. -/
def lit (ps : List (Nat × Nat)) (s : State) : State :=
  { s with framebuffer := ps.foldl (fun fb p => fb.toggle p.1 p.2) s.framebuffer }

/-- The columns of row `r` that are on. -/
def rowOf (s : State) (r : Nat) : List Nat := (List.range 64).filter (fun c => s.framebuffer.pixel r c)

/-! ## WellFormed: the ill-formed terms (30_encoding R97) -/

theorem test_wf_refuses_sys_0E0 : (Instr.sys 0x0E0#12).WellFormed = false := by decide
theorem test_wf_refuses_sys_0EE : (Instr.sys 0x0EE#12).WellFormed = false := by decide
theorem test_wf_accepts_sys : (Instr.sys 0x0E1#12).WellFormed = true := by decide

/-! ## Decoding: one word per constructor, written out from 30_encoding R94 and R96 -/

theorem test_decode_family_0 : decode 0x00E0#16 = .ok .cls ∧ decode 0x00EE#16 = .ok .ret ∧ decode 0x0ABC#16 = .ok (.sys 0xABC#12) := by
  decide
theorem test_decode_families_1_to_4 :
    decode 0x1234#16 = .ok (.jp 0x234#12) ∧ decode 0x2FED#16 = .ok (.call 0xFED#12) ∧
    decode 0x3A5C#16 = .ok (.seImm 0xA#4 0x5C#8) ∧ decode 0x4A5C#16 = .ok (.sneImm 0xA#4 0x5C#8) := by decide
theorem test_decode_families_5_to_7 :
    decode 0x5A30#16 = .ok (.seReg 0xA#4 0x3#4) ∧ decode 0x6B12#16 = .ok (.ldImm 0xB#4 0x12#8) ∧
    decode 0x7C34#16 = .ok (.addImm 0xC#4 0x34#8) := by decide
theorem test_decode_family_8_loads :
    decode 0x8120#16 = .ok (.ldReg 0x1#4 0x2#4) ∧ decode 0x8121#16 = .ok (.orReg 0x1#4 0x2#4) ∧
    decode 0x8122#16 = .ok (.andReg 0x1#4 0x2#4) ∧ decode 0x8123#16 = .ok (.xorReg 0x1#4 0x2#4) := by decide
theorem test_decode_family_8_arithmetic :
    decode 0x8124#16 = .ok (.addReg 0x1#4 0x2#4) ∧ decode 0x8125#16 = .ok (.sub 0x1#4 0x2#4) ∧
    decode 0x8126#16 = .ok (.shr 0x1#4 0x2#4) ∧ decode 0x8127#16 = .ok (.subn 0x1#4 0x2#4) ∧
    decode 0x812E#16 = .ok (.shl 0x1#4 0x2#4) := by decide
theorem test_decode_families_9_to_D :
    decode 0x9A30#16 = .ok (.sneReg 0xA#4 0x3#4) ∧ decode 0xA123#16 = .ok (.ldI 0x123#12) ∧
    decode 0xB123#16 = .ok (.jpV0 0x123#12) ∧ decode 0xC4F0#16 = .ok (.rnd 0x4#4 0xF0#8) ∧
    decode 0xD12F#16 = .ok (.drw 0x1#4 0x2#4 0xF#4) := by decide
theorem test_decode_family_E : decode 0xE79E#16 = .ok (.skp 0x7#4) ∧ decode 0xE7A1#16 = .ok (.sknp 0x7#4) := by decide
theorem test_decode_family_F_timers :
    decode 0xF307#16 = .ok (.ldVxDT 0x3#4) ∧ decode 0xF30A#16 = .ok (.ldVxK 0x3#4) ∧
    decode 0xF315#16 = .ok (.ldDTVx 0x3#4) ∧ decode 0xF318#16 = .ok (.ldSTVx 0x3#4) := by decide
theorem test_decode_family_F_index :
    decode 0xF31E#16 = .ok (.addIVx 0x3#4) ∧ decode 0xF329#16 = .ok (.ldFVx 0x3#4) ∧ decode 0xF333#16 = .ok (.ldBVx 0x3#4) ∧
    decode 0xF355#16 = .ok (.stRegs 0x3#4) ∧ decode 0xF365#16 = .ok (.ldRegs 0x3#4) := by decide

/-- TF9, TF10, TA33, TK6, TK15: unsupported patterns. -/
theorem test_decode_unsupported :
    [0x5121#16, 0x9AB3#16, 0x8008#16, 0x800F#16, 0x801D#16, 0xE0A2#16, 0xE09F#16, 0xF0FF#16, 0xF000#16, 0xF01F#16].all
      (fun op => decode op == .error (.unsupportedOpcode op)) = true := by decide

theorem test_decodeTableWord : decodeTableWord 16 0xD12F = some (.drw 0x1#4 0x2#4 0xF#4) ∧ decodeTableWord 16 0x8008 = none := by
  decide

theorem test_decodeBytes_short : decodeBytes [0x00#8] = .error .tooShort := by decide

/-! ## Control flow -/

/-- TF1, TF2. -/
theorem test_seImm : (run 0x330A (withV [(3, 0x0A)])).map (·.pc) = some 0x204#16 ∧
    (run 0x330A (withV [(3, 0x0B)])).map (·.pc) = some 0x202#16 := by decide
/-- TF3, TF4. -/
theorem test_sneImm : (run 0x430A (withV [(3, 0x0A)])).map (·.pc) = some 0x202#16 ∧
    (run 0x430A (withV [(3, 0x09)])).map (·.pc) = some 0x204#16 := by decide
/-- TF5, TF6. -/
theorem test_seReg : (run 0x5110 State.reset).map (·.pc) = some 0x204#16 ∧
    (run 0x5120 (withV [(1, 7), (2, 8)])).map (·.pc) = some 0x202#16 := by decide
/-- TF7, TF8. -/
theorem test_sneReg : (run 0x9120 (withV [(1, 7), (2, 7)])).map (·.pc) = some 0x202#16 ∧
    (run 0x9120 (withV [(1, 7), (2, 8)])).map (·.pc) = some 0x204#16 := by decide
/-- TF11. -/
theorem test_jp : (run 0x1ABC State.reset).map (·.pc) = some 0xABC#16 := by decide
/-- TF13: the sixteenth slot. -/
theorem test_call_last_slot : (run 0x2400 { State.reset with sp := 15 }).map (fun t => (t.stack[15], t.sp.val, t.pc)) =
    some (0x202#16, 16, 0x400#16) := by decide
/-- TF14. -/
theorem test_call_overflow : (run 0x2400 { State.reset with sp := 16 }).map (fun t => (t.error, t.sp.val, t.pc)) =
    some (some (.stackOverflow 0x2400#16 0x200#16), 16, 0x202#16) := by decide
/-- TF15. -/
theorem test_ret_underflow : (run 0x00EE State.reset).map (fun t => (t.error, t.sp.val, t.pc)) =
    some (some (.stackUnderflow 0x00EE#16 0x200#16), 0, 0x202#16) := by decide
/-- TF16: the slot keeps its value. -/
theorem test_ret : (run 0x00EE { State.reset with sp := 2, stack := State.reset.stack.set 1 0x456#16 }).map
    (fun t => (t.pc, t.sp.val, t.stack[1])) = some (0x456#16, 1, 0x456#16) := by decide
/-- TF17, TF18: no wrap. -/
theorem test_jpV0 : (run 0xB300 (withV [(0, 0x04)])).map (·.pc) = some 0x304#16 ∧
    (run 0xBFFF (withV [(0, 0xFF)])).map (·.pc) = some 0x10FE#16 := by decide
/-- TF21: SYS raises, pc past it. -/
theorem test_sys : (run 0x0123 State.reset).map (fun t => (t.error, t.pc)) =
    some (some (.unsupportedOpcode 0x0123#16 0x200#16), 0x202#16) := by decide
/-- TF20: an odd pc fetches from an odd address. -/
theorem test_fetch_odd : (nextOf ((poke 0x203 [0x60, 0x11] { State.reset with pc := 0x203#16 }).perform (.step 0 0))).map
    (fun t => (t.getV 0, t.pc)) = some (0x11#8, 0x205#16) := by decide
/-- TE1: the fetch at 0xFFF; TE2: the last word that can be fetched. -/
theorem test_fetch_bound :
    (nextOf (({ State.reset with pc := 0xFFF#16 } : State).perform (.step 0 0))).map (fun t => (t.error, t.pc)) =
      some (some (.memoryOutOfRange 0x1000 none 0xFFF#16), 0xFFF#16) ∧
    (nextOf ((poke 0xFFE [0x12, 0x00] { State.reset with pc := 0xFFE#16 }).perform (.step 0 0))).map (·.pc) =
      some 0x200#16 := by decide
/-- TF9: an unsupported word is skipped and recorded. -/
theorem test_unsupported : (run 0x5121 State.reset).map (fun t => (t.error, t.reply, t.pc)) =
    some (some (.unsupportedOpcode 0x5121#16 0x200#16), .error (.unsupportedOpcode 0x5121#16 0x200#16), 0x202#16) := by decide
/-- 60_exceptions R308: a later error does not replace the first. -/
theorem test_first_error_kept : (run 0x5121 { State.reset with error := some .invalidState }).map (·.error) =
    some (some .invalidState) := by decide

/-! ## Registers and arithmetic: pairs are (Vx, VF) -/

/-- TA1. -/
theorem test_ldImm : (run 0x6F12 State.reset).map (·.getV 0xF) = some 0x12#8 := by decide
/-- TA2, TA3. -/
theorem test_addImm : (run 0x7001 (withV [(0, 0xFF), (0xF, 0x55)])).map (fun t => (t.getV 0, t.getV 0xF)) = some (0x00#8, 0x55#8) ∧
    (run 0x7F01 (withV [(0xF, 0xFF)])).map (·.getV 0xF) = some 0x00#8 := by decide
/-- TA4. -/
theorem test_ldReg : (run 0x8010 (withV [(1, 0x33)])).map (·.getV 0) = some 0x33#8 := by decide
/-- TA5. -/
theorem test_orReg : (run 0x8011 (withV [(0, 0xF0), (1, 0x0F), (0xF, 0x77)])).map (fun t => (t.getV 0, t.getV 0xF)) =
    some (0xFF#8, 0x77#8) := by decide
/-- TA6. -/
theorem test_andReg : (run 0x8012 (withV [(0, 0xF3), (1, 0x3F)])).map (·.getV 0) = some 0x33#8 := by decide
/-- TA7, TA8. -/
theorem test_xorReg : (run 0x8013 (withV [(0, 0xFF), (1, 0x0F)])).map (·.getV 0) = some 0xF0#8 ∧
    (run 0x8003 (withV [(0, 0x5A)])).map (·.getV 0) = some 0x00#8 := by decide
/-- S1, TA9. -/
theorem test_addReg : (run 0x8014 (withV [(0, 0xFF), (1, 0x01)])).map (fun t => (t.getV 0, t.getV 0xF)) = some (0x00#8, 0x01#8) ∧
    (run 0x8014 (withV [(0, 0x80), (1, 0x7F)])).map (fun t => (t.getV 0, t.getV 0xF)) = some (0xFF#8, 0x00#8) := by decide
/-- TA12, TA13: VF as destination and as source. -/
theorem test_addReg_vf : (run 0x8F14 (withV [(0xF, 0xFF), (1, 0x01)])).map (·.getV 0xF) = some 0x01#8 ∧
    (run 0x80F4 (withV [(0, 0x10), (0xF, 0x05)])).map (fun t => (t.getV 0, t.getV 0xF)) = some (0x15#8, 0x00#8) := by decide
/-- S2 (equal operands give VF = 0), TA15. -/
theorem test_sub : (run 0x8015 (withV [(0, 0x01), (1, 0x01)])).map (fun t => (t.getV 0, t.getV 0xF)) = some (0x00#8, 0x00#8) ∧
    (run 0x8015 (withV [(0, 0x00), (1, 0x01)])).map (fun t => (t.getV 0, t.getV 0xF)) = some (0xFF#8, 0x00#8) := by decide
/-- TA14, TA17. -/
theorem test_sub_flag : (run 0x8015 (withV [(0, 0x05), (1, 0x03)])).map (fun t => (t.getV 0, t.getV 0xF)) = some (0x02#8, 0x01#8) ∧
    (run 0x8F15 (withV [(0xF, 0x05), (1, 0x03)])).map (·.getV 0xF) = some 0x01#8 := by decide
/-- TA24 (y ignored), TA25. -/
theorem test_shr : (run 0x8016 (withV [(0, 0x05), (1, 0xF0)])).map (fun t => (t.getV 0, t.getV 0xF)) = some (0x02#8, 0x01#8) ∧
    (run 0x8F06 (withV [(0xF, 0x02)])).map (·.getV 0xF) = some 0x00#8 := by decide
/-- TA18, TA19. -/
theorem test_subn : (run 0x8017 (withV [(0, 0x01), (1, 0x05)])).map (fun t => (t.getV 0, t.getV 0xF)) = some (0x04#8, 0x01#8) ∧
    (run 0x8017 (withV [(0, 0x02), (1, 0x01)])).map (fun t => (t.getV 0, t.getV 0xF)) = some (0xFF#8, 0x00#8) := by decide
/-- TA28, TA29. -/
theorem test_shl : (run 0x800E (withV [(0, 0x81)])).map (fun t => (t.getV 0, t.getV 0xF)) = some (0x02#8, 0x01#8) ∧
    (run 0x8F0E (withV [(0xF, 0x40)])).map (·.getV 0xF) = some 0x00#8 := by decide
/-- TA30, TA32. -/
theorem test_rnd : (run 0xC00F State.reset).map (·.getV 0) = some 0x07#8 ∧
    (runAt 0 0x5A#8 0xC0FF State.reset).map (·.getV 0) = some 0x5A#8 := by decide

/-! ## Index register and memory -/

/-- TM1. -/
theorem test_ldI : (run 0xAFFF State.reset).map (·.i) = some 0xFFF#16 := by decide
/-- TM3, TM4. -/
theorem test_addIVx : (run 0xF01E { withV [(0, 0x01)] with i := 0xFFF#16 }).map (·.i) = some 0x1000#16 ∧
    (run 0xF01E { withV [(0, 0x01)] with i := 0xFFFF#16 }).map (·.i) = some 0x0000#16 := by decide
/-- TM6, TM7. -/
theorem test_ldFVx : (run 0xF029 (withV [(0, 0x0F)])).map (·.i) = some 0x04B#16 ∧
    (run 0xF029 (withV [(0, 0x1A)])).map (·.i) = some 0x032#16 := by decide
/-- TM12: at the top of memory. -/
theorem test_ldBVx : (run 0xF033 { withV [(0, 0x7B)] with i := 0xFFD#16 }).map
    (fun t => (t.mem.bytes 0xFFC 4, t.i)) = some ([0x00#8, 0x01#8, 0x02#8, 0x03#8], 0xFFD#16) := by decide
/-- TM13: nothing is written. -/
theorem test_ldBVx_range : (run 0xF033 { withV [(0, 0x7B)] with i := 0xFFE#16 }).map
    (fun t => (t.mem.bytes 0xFFE 2, t.error, t.pc)) =
    some ([0x00#8, 0x00#8], some (.memoryOutOfRange 0x1000 (some 0xF033#16) 0x200#16), 0x202#16) := by decide
/-- 42_index_memory R205's example. -/
theorem test_stRegs : (run 0xF155 { withV [(0, 0x11), (1, 0x22), (2, 0x33)] with i := 0x300#16 }).map
    (fun t => (t.mem.bytes 0x300 3, t.i)) = some ([0x11#8, 0x22#8, 0x00#8], 0x300#16) := by decide
/-- TM16. -/
theorem test_stRegs_range : (run 0xFF55 { withV [(0, 0x11)] with i := 0xFF1#16 }).map (fun t => (t.mem.read 0xFF1, t.error)) =
    some (0x00#8, some (.memoryOutOfRange 0x1000 (some 0xFF55#16) 0x200#16)) := by decide
/-- TM17: the register above x is kept. -/
theorem test_ldRegs : (run 0xF265 (poke 0x300 [1, 2, 3, 4] { withV [(3, 0x99)] with i := 0x300#16 })).map
    (fun t => (t.v.toList.take 4, t.i)) = some ([1#8, 2#8, 3#8, 0x99#8], 0x300#16) := by decide
/-- TM19. -/
theorem test_ldRegs_range : (run 0xF065 { withV [(0, 0x42)] with i := 0x1000#16 }).map (fun t => (t.getV 0, t.error)) =
    some (0x42#8, some (.memoryOutOfRange 0x1000 (some 0xF065#16) 0x200#16)) := by decide

/-! ## Keyboard and timers -/

/-- TK1, TK3. -/
theorem test_skp : (run 0xE19E { withV [(1, 7)] with keyboard := 0x0080#16 }).map (·.pc) = some 0x204#16 ∧
    (run 0xE19E { withV [(1, 0x10)] with keyboard := 0xFFFF#16 }).map (·.pc) = some 0x202#16 := by decide
/-- TK4, TK5. -/
theorem test_sknp : (run 0xE1A1 { withV [(1, 7)] with keyboard := 0x0080#16 }).map (·.pc) = some 0x202#16 ∧
    (run 0xE1A1 { withV [(1, 0x10)] with keyboard := 0xFFFF#16 }).map (·.pc) = some 0x204#16 := by decide
/-- TK7. -/
theorem test_ldVxDT : (run 0xF307 { State.reset with delayTimer := 0x2A#8 }).map (·.getV 3) = some 0x2A#8 := by decide +kernel
/-- TT7: the gate runs first, then the read. -/
theorem test_ldVxDT_after_gate : (runAt (1 / 50) 0 0xF307 { State.reset with delayTimer := 5#8 }).map
    (fun t => (t.getV 3, t.delayTimer)) = some (4#8, 4#8) := by decide +kernel
/-- TT8. -/
theorem test_ldDTVx : (runAt (1 / 50) 0 0xF315 { withV [(3, 9)] with delayTimer := 5#8 }).map (·.delayTimer) = some 9#8 := by decide
/-- 43_timers_keys R236's example, and TK9. -/
theorem test_ldSTVx : (run 0xF018 (withV [(0, 0x02)])).map (fun t => (t.soundTimer, t.beep)) = some (0x02#8, true) ∧
    (run 0xF418 { State.reset with soundTimer := 9#8 }).map (·.beep) = some false := by decide
/-- TK10: a held key does not complete the wait. -/
theorem test_ldVxK : (run 0xF30A { withV [(3, 0x42)] with keyboard := 0x0020#16 }).map
    (fun t => (t.awaitingKey, t.pc, t.getV 3)) = some (true, 0x200#16, 0x42#8) := by decide
/-- TK14: the key-down that completes a wait. -/
theorem test_keyDown_completes :
    (nextOf (({ State.reset.withFetchWord 16 0xFF0A with awaitingKey := true } : State).perform (.keyDown 0xC))).map
      (fun t => (t.getV 0xF, t.awaitingKey, t.pc, t.keyboard)) = some (0x0C#8, false, 0x202#16, 0x1000#16) := by decide
/-- TK12, TK13. -/
theorem test_key_events :
    (nextOf (State.reset.perform (.keyDown 3))).map (fun t => (t.keyboard, t.pc)) = some (0x0008#16, 0x200#16) ∧
    (nextOf (({ State.reset with awaitingKey := true, keyboard := 0x0006#16 } : State).perform (.keyUp 2))).map
      (fun t => (t.keyboard, t.awaitingKey)) = some (0x0002#16, true) := by decide
/-- TK11: a step while suspended. -/
theorem test_step_suspended :
    (nextOf (({ State.reset with awaitingKey := true, delayTimer := 5#8 } : State).perform (.step 1 0))).map
      (fun t => (t.delayTimer, t.pc, t.error)) = some (5#8, 0x200#16, some .invalidState) := by decide
/-- TT1 to TT5: the gate. -/
theorem test_gate :
    (({ State.reset with delayTimer := 5#8, soundTimer := 5#8 } : State).timerGate (1 / 100)).soundTimer = 5#8 ∧
    (({ State.reset with delayTimer := 5#8, soundTimer := 5#8 } : State).timerGate (1 / 50)).soundTimer = 4#8 ∧
    (({ State.reset with soundTimer := 3#8 } : State).timerGate (1 / 50)).delayTimer = 0#8 ∧
    (State.reset.timerGate (1 / 50)).lastTick = 1 / 50 ∧
    (({ State.reset with delayTimer := 5#8 } : State).timerGate 10).delayTimer = 4#8 := by decide +kernel
/-- TT6 (a clock that goes back) and TT9 (1/60 s exactly). -/
theorem test_gate_edges :
    (({ State.reset with delayTimer := 5#8, lastTick := 5 } : State).timerGate 4).delayTimer = 5#8 ∧
    (({ State.reset with delayTimer := 5#8 } : State).timerGate (1 / 60)).delayTimer = 4#8 := by decide +kernel
/-- TT10: the gate's effect is kept when the word is unsupported. -/
theorem test_gate_kept_on_error : (runAt (1 / 50) 0 0x8008 { State.reset with delayTimer := 5#8 }).map
    (fun t => (t.delayTimer, t.error, t.pc)) = some (4#8, some (.unsupportedOpcode 0x8008#16 0x200#16), 0x202#16) := by decide +kernel

/-! ## Display -/

/-- TD1. -/
theorem test_cls : (run 0x00E0 (lit [(0, 0), (31, 63)] (withV [(0xF, 0x77)]))).map
    (fun t => (t.framebuffer.pixel 0 0, t.framebuffer.pixel 31 63, t.getV 0xF)) = some (false, false, 0x77#8) := by decide
/-- S4: clipped at the right edge. -/
theorem test_drw_clips : (run 0xD011 (poke 0x300 [0xFF] { withV [(0, 0x3C), (0xF, 0x77)] with i := 0x300#16 })).map
    (fun t => (rowOf t 0, t.getV 0xF)) = some ([60, 61, 62, 63], 0x00#8) := by decide +kernel
/-- TD7: a collision; TD6's pattern shows the bit order. -/
theorem test_drw_collision : (run 0xD011 (lit [(0, 0)] (poke 0x300 [0x81] { State.reset with i := 0x300#16 }))).map
    (fun t => (rowOf t 0, t.getV 0xF)) = some ([7], 0x01#8) := by decide +kernel
/-- TD5: rows past the bottom edge are dropped. -/
theorem test_drw_bottom : (run 0xD013 (poke 0x300 [0xFF, 0xFF, 0xFF] { withV [(1, 31)] with i := 0x300#16 })).map
    (fun t => (rowOf t 31, rowOf t 0, t.getV 0xF)) = some ([0, 1, 2, 3, 4, 5, 6, 7], [], 0x00#8) := by decide +kernel
/-- TD9: the range is checked for clipped rows too; nothing is drawn and VF is kept. -/
theorem test_drw_range : (run 0xD013 { withV [(1, 31), (0xF, 0x77)] with i := 0xFFE#16 }).map
    (fun t => (rowOf t 31, t.getV 0xF, t.error)) =
    some ([], 0x77#8, some (.memoryOutOfRange 0x1000 (some 0xD013#16) 0x200#16)) := by decide +kernel

/-! ## Loading and reset -/

/-- TE7. -/
theorem test_font : State.reset.mem.bytes 0x000 5 = [0xF0#8, 0x90#8, 0x90#8, 0x90#8, 0xF0#8] ∧
    State.reset.mem.bytes 0x04B 5 = [0xF0#8, 0x80#8, 0xF0#8, 0x80#8, 0x80#8] := by decide
/-- TE6 and the bytes of a small program. -/
theorem test_load : (nextOf (({ withV [(3, 0x44)] with sp := 5, pc := 0x456#16, session := .notLoaded } : State).perform (.load [0x60, 0x00, 0x12]))).map
    (fun t => (t.getV 3, t.sp.val, t.pc, t.mem.bytes 0x1FF 5)) =
    some (0x44#8, 0, 0x200#16, [0x00#8, 0x60#8, 0x00#8, 0x12#8, 0x00#8]) := by decide
/-- TE4, at one byte over. -/
theorem test_load_too_large (bytes : List Byte) (h : bytes.length = 3585) :
    (State.reset.load bytes).reply = .error (.programTooLarge 3585) ∧ (State.reset.load bytes).session = .failed ∧
    (State.reset.load bytes).mem = [] := by
  rcases State.load_cases bytes State.reset with ⟨_, e⟩ | ⟨h2, _⟩
  · rw [e, h]; exact ⟨rfl, rfl, rfl⟩
  · omega
/-- Writing the value an unlisted address reads as removes its cell. -/
theorem test_memory_canonical : (Memory.write (Memory.write [] 0x300 5#8) 0x300 0#8 = []) ∧
    (Memory.write (Memory.write [] 0x300 5#8) 0x000 0x01#8 = [(0x000, 0x01#8), (0x300, 5#8)]) := by decide
/-- The step takes the listed operations in order: a key-down, then the step. -/
theorem test_inputs_in_order :
    (nextOf (step { State.reset with inputs := [.keyDown 3, .step 0 0] })).map (fun t => (t.keyboard, t.inputs.length, t.pc)) =
      some (0x0008#16, 1, 0x200#16) := by decide
/-- With nothing listed the step runs the placed instruction, first after reset. -/
theorem test_step_runs_placed : (nextOf (step (State.reset.withFetchWord 16 0x6A7B))).map (fun t => (t.getV 0xA, t.pc)) =
    some (0x7B#8, 0x202#16) := by decide
/-- 93 U14: no session, no step, neither before a load nor after a failed one. -/
theorem test_no_session : nextOf (({ State.reset with session := .notLoaded } : State).perform (.step 0 0)) = none ∧
    nextOf (({ State.reset with session := .failed } : State).perform (.step 0 0)) = none := by decide
/-- D25: load is called once; a second call, in a session or after a failed load, has no transition. -/
theorem test_second_load : State.reset.perform (.load [0x12, 0x00]) = .refused .secondLoad ∧
    ({ State.reset with session := .failed } : State).perform (.load [0x12, 0x00]) = .refused .secondLoad := ⟨rfl, rfl⟩

/-! ## Witnesses: states and operands that meet the hypotheses of the statements in Certificates/Slice0/Obligations.lean -/

/-- A loaded machine about to run `LD VA, 0x7B`. -/
def sLoad : State := State.reset.withFetchWord 16 0x6A7B

/-- A machine suspended on `LD V1, K`. -/
def sWait : State := { State.reset.withFetchWord 16 0xF10A with awaitingKey := true }

/-- A machine with I = 0x300 and a lit pixel under the sprite byte there. -/
def sDraw : State := lit [(0, 0)] (poke 0x300 [0x81] { State.reset with i := 0x300#16 })

/-- The suspended machine meets the invariants, with the key-wait at pc. -/
theorem witness_Inv : sWait.Inv where
  memWf := by decide
  pcBound := by decide
  stackBound := fun _ h => absurd h (Nat.not_lt_zero _)
  keyWait := fun _ => ⟨by decide, 0xF10A#16, by decide, by decide, by decide⟩
  suspendedInSession := fun _ => rfl
  contract := Nat.le_refl 1

theorem witness_DecodeOfEncode : (Instr.sys 0xFFF#12).WellFormed = true ∧ Instr.cls.WellFormed = true := by decide
theorem witness_EncodeOfDecode : decode 0x8F1E#16 = .ok (.shl 0xF#4 0x1#4) := by decide
theorem witness_FetchIsBigEndianAndBounded : 0xFFE + 1 ≤ 0xFFF ∧ 0xFFF < 0xFFF + 1 := by decide
theorem witness_StepRunsDecodedInstruction :
    ({ sLoad with inputs := [.step 0 0] } : State).takeInput = (.step 0 0, sLoad) ∧ sLoad.session = .loaded ∧
    sLoad.awaitingKey = false ∧ sLoad.mem.fetch16 sLoad.pc.toNat = .ok 0x6A7B#16 ∧
    decode 0x6A7B#16 = .ok (.ldImm 0xA#4 0x7B#8) := ⟨rfl, rfl, rfl, by decide, by decide⟩
theorem witness_SuspendedStepChangesNothing : sWait.session = .loaded ∧ sWait.awaitingKey = true := by decide
theorem witness_FetchAndDecodeErrors_fetch : ∃ s : State, s.session = .loaded ∧ s.awaitingKey = false ∧ 0xFFF < s.pc.toNat + 1 :=
  ⟨{ State.reset with pc := 0xFFF#16 }, by decide⟩
theorem witness_FetchAndDecodeErrors_decode : ∃ s : State, s.session = .loaded ∧ s.awaitingKey = false ∧
    s.mem.fetch16 s.pc.toNat = .ok 0x8008#16 ∧ decode 0x8008#16 = .error (.unsupportedOpcode 0x8008#16) :=
  ⟨State.reset.withFetchWord 16 0x8008, by decide⟩
theorem witness_FirstErrorIsSticky : ∃ s t : State, step s = .next t ∧ s.error = some .invalidState ∧ t.reply = .error .invalidState :=
  ⟨{ sWait with error := some .invalidState }, _, rfl, rfl, rfl⟩
theorem witness_FirstErrorIsSticky_noError : ∃ s t : State, step s = .next t ∧ ∀ e, t.reply ≠ .error e :=
  ⟨{ State.reset with inputs := [.keyUp 0] }, _, rfl, fun _ h => by cases h⟩
theorem witness_InstructionErrorsCommitNothing :
    ∃ (s t : State) (e : ErrorInfo), s.reply = .ok ∧ exec .ret s = .next t ∧ t.reply = .error e := ⟨State.reset, _, _, rfl, rfl, rfl⟩
theorem witness_StepKeepsInvariant : sWait.Inv ∧ ∃ t, step sWait = .next t := ⟨witness_Inv, _, rfl⟩
/-- The longest program, under a host that presses a key and steps. -/
theorem witness_LoadedMachineMeetsInvariant : (List.replicate 3584 (0x12#8 : Byte)).length ≤ 3584 ∧
    loadsIn [.keyDown 5, .step 0 0] = 0 := ⟨Nat.le_of_eq List.length_replicate, rfl⟩
theorem witness_StepKeepsMemoryCanonical : sWait.mem.wf ∧ ∃ t, step sWait = .next t := ⟨witness_Inv.memWf, _, rfl⟩
theorem witness_LoadedMachineNeverStops : sWait.Inv ∧ sWait.session = .loaded := ⟨witness_Inv, rfl⟩
theorem witness_MemoryAndScreenHaveTheirWriters : ∃ t, exec (.ldImm 0xA#4 0x7B#8) sDraw = .next t ∧
    (∀ x, Instr.ldImm 0xA#4 0x7B#8 ≠ .ldBVx x) ∧ (∀ x, Instr.ldImm 0xA#4 0x7B#8 ≠ .stRegs x) ∧
    Instr.ldImm 0xA#4 0x7B#8 ≠ .cls ∧ (∀ x y n, Instr.ldImm 0xA#4 0x7B#8 ≠ .drw x y n) := ⟨_, rfl, by simp, by simp, by simp, by simp⟩
theorem witness_InstructionsLeaveHostStateAlone : ∃ t, exec (.ldVxK 0x1#4) sLoad = .next t := ⟨_, rfl⟩
theorem witness_ControlStateHasItsWriters : ∃ t, exec .cls sLoad = .next t ∧ (∀ a, Instr.cls ≠ .call a) ∧ Instr.cls ≠ .ret ∧
    (∀ x, Instr.cls ≠ .ldDTVx x) ∧ (∀ x, Instr.cls ≠ .ldSTVx x) ∧ (∀ a, Instr.cls ≠ .ldI a) ∧ (∀ x, Instr.cls ≠ .addIVx x) ∧
    (∀ x, Instr.cls ≠ .ldFVx x) ∧ (∀ x, Instr.cls ≠ .ldVxK x) := ⟨_, rfl, by simp⟩
theorem witness_WaitEndsOnlyByKeyDown : ∃ s t : State, step s = .next t ∧ s.awaitingKey = true ∧ t.awaitingKey = false :=
  ⟨{ sWait with inputs := [.keyDown 7] }, _, rfl, rfl, rfl⟩
theorem witness_TimersFrozenWhileSuspended : ∃ t, step sWait = .next t ∧ sWait.awaitingKey = true := ⟨_, rfl, rfl⟩
theorem witness_TimerGateDecrementsBoth : (1 : Rat) ≤ (1 / 60 - State.reset.lastTick) * 60 ∧ ((1 : Rat) / 61 - State.reset.lastTick) * 60 < 1 := by
  decide +kernel
theorem witness_DecrementsAtLeastASixtiethApart : (1 : Rat) ≤ (1 / 60 - State.reset.lastTick) * 60 ∧
    ((State.reset.timerGate (1 / 60)).timerGate (1 / 30)).lastTick ≠ 1 / 60 := by decide +kernel
theorem witness_TimersFallAtMostOnePerStep : ∃ t, sLoad.perform (.step 1 0) = .next t ∧
    (∀ op x, sLoad.mem.fetch16 sLoad.pc.toNat = .ok op → decode op ≠ .ok (.ldDTVx x)) ∧
    (∀ op x, sLoad.mem.fetch16 sLoad.pc.toNat = .ok op → decode op ≠ .ok (.ldSTVx x)) := by
  have hf : sLoad.mem.fetch16 sLoad.pc.toNat = .ok 0x6A7B#16 := by decide
  have hd : decode 0x6A7B#16 = .ok (.ldImm 0xA#4 0x7B#8) := by decide
  refine ⟨_, rfl, fun op x h => ?_, fun op x h => ?_⟩ <;> rw [hf] at h <;> cases h <;> rw [hd] <;> simp
theorem witness_SkipsOnRegister : (0xF#4 : Nibble) ≠ 0x0#4 := by decide
/-- The first and the last free slot. -/
theorem witness_CallPushesReturnAddress : State.reset.sp.val < 16 ∧ ({ State.reset with sp := 15 } : State).sp.val < 16 := by decide
/-- One call and sixteen. -/
theorem witness_RetPopsReturnAddress : ({ State.reset with sp := 1 } : State).sp.val = (0 : Fin 16).val + 1 ∧
    ({ State.reset with sp := 16 } : State).sp.val = (15 : Fin 16).val + 1 := by decide
theorem witness_StackBoundsRaise : ({ State.reset with sp := 16 } : State).sp.val = 16 ∧ State.reset.sp.val = 0 := by decide
theorem witness_CallThenReturnRestores : ∃ t u : State, State.reset.sp.val < 16 ∧ exec (.call 0x300#12) State.reset = .next t ∧
    u.stack = t.stack ∧ u.sp = t.sp := ⟨_, _, by decide, rfl, rfl, rfl⟩
/-- A destination other than VF, for the clauses of AddSetsCarry, SubtractsSetStrictFlag and ShiftsKeepTheLostBit. -/
theorem witness_flag_destination : (0x0#4 : Nibble) ≠ 0xF#4 := by decide
/-- The last address that fits. -/
theorem witness_BcdStoresThreeDigits : ({ State.reset with i := 0xFFD#16 } : State).i.toNat + 2 ≤ 0xFFF := by decide
theorem witness_BlockStoreWritesRegisters : ({ State.reset with i := 0xFF0#16 } : State).i.toNat + (0xF#4 : Nibble).toNat ≤ 0xFFF := by
  decide
theorem witness_BlockLoadReadsRegisters : ({ State.reset with i := 0xFFF#16 } : State).i.toNat + (0x0#4 : Nibble).toNat ≤ 0xFFF := by
  decide
/-- The first address that does not fit, for each clause. -/
theorem witness_BlocksPastTheEndRaise : 0xFFF < ({ State.reset with i := 0xFFE#16 } : State).i.toNat + 2 ∧
    0xFFF < ({ State.reset with i := 0xFF1#16 } : State).i.toNat + (0xF#4 : Nibble).toNat ∧
    (1 ≤ (0x3#4 : Nibble).toNat ∧ 0xFFF < ({ State.reset with i := 0xFFE#16 } : State).i.toNat + (0x3#4 : Nibble).toNat - 1) := by
  decide
theorem witness_StoredBlockLoadsBack : ∃ t u : State, sDraw.i.toNat + (0xF#4 : Nibble).toNat ≤ 0xFFF ∧
    exec (.stRegs 0xF#4) sDraw = .next t ∧ u.mem = t.mem ∧ u.i = t.i := by
  rcases execStRegs_cases 0xF#4 sDraw with ⟨h, _⟩ | ⟨h, e⟩
  · exact absurd h (by decide)
  · exact ⟨_, _, h, e, rfl, rfl⟩
theorem witness_StoredWordIsFetched : ∃ t : State, sDraw.i.toNat + (0x1#4 : Nibble).toNat ≤ 0xFFF ∧
    exec (.stRegs 0x1#4) sDraw = .next t ∧ (0x1#4 : Nibble).toNat = (0x0#4 : Nibble).toNat + 1 ∧
    (0x1#4 : Nibble).toNat ≤ (0x1#4 : Nibble).toNat := by
  rcases execStRegs_cases 0x1#4 sDraw with ⟨h, _⟩ | ⟨h, e⟩
  · exact absurd h (by decide)
  · exact ⟨_, h, e, by decide, by decide⟩
/-- A key number, and the first value that names no key. -/
theorem witness_KeySkipsTestTheMask : ((withV [(1, 0x0F)]).getV 1).toNat = (15 : Key).val ∧ 0xF < ((withV [(1, 0x10)]).getV 1).toNat := by
  decide
theorem witness_RandomByteIsMasked : ∃ s : State, s.session = .loaded ∧ s.awaitingKey = false ∧
    s.mem.fetch16 s.pc.toNat = .ok 0xC30F#16 ∧ decode 0xC30F#16 = .ok (.rnd 0x3#4 0x0F#8) :=
  ⟨State.reset.withFetchWord 16 0xC30F, by decide⟩
theorem witness_TimerReadFollowsTheGate : ∃ s : State, s.session = .loaded ∧ s.awaitingKey = false ∧
    s.mem.fetch16 s.pc.toNat = .ok 0xF307#16 ∧ decode 0xF307#16 = .ok (.ldVxDT 0x3#4) := ⟨State.reset.withFetchWord 16 0xF307, by decide⟩
theorem witness_KeyWaitSuspendsInPlace : ∃ s : State, s.session = .loaded ∧ s.awaitingKey = false ∧
    s.mem.fetch16 s.pc.toNat = .ok 0xF10A#16 ∧ decode 0xF10A#16 = .ok (.ldVxK 0x1#4) := ⟨State.reset.withFetchWord 16 0xF10A, by decide⟩
theorem witness_KeyEventsAndCompletion : State.reset.awaitingKey = false ∧ sWait.awaitingKey = true ∧
    sWait.mem.fetch16 sWait.pc.toNat = .ok 0xF10A#16 := by decide
/-- No rows anywhere, and the last rows of memory; and a sprite bit over a lit pixel, for the collision clause. -/
theorem witness_DrawFlipsExactlyTheSprite : (0x0#4 : Nibble).toNat = 0 ∧
    ({ State.reset with i := 0xFF1#16 } : State).i.toNat + (0xF#4 : Nibble).toNat - 1 ≤ 0xFFF ∧
    (sDraw.spriteBit 0 0 1 0 0 = true ∧ sDraw.framebuffer.pixel 0 0 = true) := by decide
/-- A state whose on-screen pixels under the sprite are all off: an empty screen. -/
theorem witness_DrawingTwiceRestores : ∃ s t u : State, s.i.toNat + (0x1#4 : Nibble).toNat - 1 ≤ 0xFFF ∧
    exec (.drw 0x0#4 0x1#4 0x1#4) s = .next t ∧ u.framebuffer = t.framebuffer ∧ u.mem = t.mem ∧ u.i = t.i ∧
    u.getV 0x0#4 = s.getV 0x0#4 ∧ u.getV 0x1#4 = s.getV 0x1#4 ∧
    (∀ r c, s.spriteBit 0x0#4 0x1#4 0x1#4 r c = true → s.framebuffer.pixel r c = false) ∧ s.spriteBit 0x0#4 0x1#4 0x1#4 0 0 = true := by
  refine ⟨poke 0x300 [0x81] { State.reset with i := 0x300#16 }, ?_⟩
  rcases execDrw_cases 0x0#4 0x1#4 0x1#4 (poke 0x300 [0x81] { State.reset with i := 0x300#16 }) with ⟨_, h, _⟩ | ⟨_, e⟩
  · exact absurd h (by decide)
  · refine ⟨_, _, by decide, e, rfl, rfl, rfl, ?_, ?_, fun r c _ => Framebuffer.pixel_clear r c, by decide⟩
    · rw [State.getV_afterDraw]; rfl
    · rw [State.getV_afterDraw]; rfl
theorem witness_LoadInstallsTheProgram : ({ State.reset with session := .notLoaded } : State).session = .notLoaded ∧
    (List.replicate 3584 (0x12#8 : Byte)).length ≤ 3584 ∧ 3584 < (List.replicate 3585 (0x12#8 : Byte)).length :=
  ⟨rfl, Nat.le_of_eq List.length_replicate, Nat.lt_of_lt_of_eq (Nat.lt_succ_self 3584) List.length_replicate.symm⟩

end Sys2Proof.Tests
end

section
/-! Control flow (40_flow): JP and the skips on an immediate. -/

namespace Sys2Proof

/-- The word 1NNN is JP nnn (30_encoding R96). -/
@[simp] theorem decode_fmtNNN_jp (nnn : Addr12) : decode (fmtNNN 0x1#4 nnn) = .ok (.jp nnn) := by
  simp [decode]

/-- The word 3XNN is SE Vx, nn (30_encoding R96). -/
@[simp] theorem decode_fmtXNN_seImm (x : Nibble) (nn : Byte) : decode (fmtXNN 0x3#4 x nn) = .ok (.seImm x nn) := by
  simp [decode]

/-- The word 4XNN is SNE Vx, nn (30_encoding R96). -/
@[simp] theorem decode_fmtXNN_sneImm (x : Nibble) (nn : Byte) : decode (fmtXNN 0x4#4 x nn) = .ok (.sneImm x nn) := by
  simp [decode]

end Sys2Proof

namespace Sys2Proof.Machine

@[simp] theorem toNat_addrOf (nnn : Addr12) : (addrOf nnn).toNat = nnn.toNat :=
  BitVec.toNat_setWidth_of_le (by decide)

theorem exec_jp (nnn : Addr12) (s : State) : exec (.jp nnn) s = .next (s.setPc (addrOf nnn)) := rfl

theorem exec_seImm (x : Nibble) (nn : Byte) (s : State) : exec (.seImm x nn) s = .next (s.skipIf (s.getV x == nn)) := rfl

theorem exec_sneImm (x : Nibble) (nn : Byte) (s : State) : exec (.sneImm x nn) s = .next (s.skipIf (s.getV x != nn)) := rfl

/-- A skip writes pc only, and its Boolean test may be read as the condition it decides. -/
theorem State.skipIf_of_iff (s : State) {c : Bool} {p : Prop} [Decidable p] (h : c = true ↔ p) :
    s.skipIf c = { s with pc := if p then s.pc + 2 else s.pc } := by
  simp only [State.skipIf, h]

end Sys2Proof.Machine

namespace Sys2Proof.Proofs

open Machine

/-- Settles O24: the decoded word sets pc to the zero-extended target, and `setPc` touches no other field. -/
theorem jumpIsAbsolute : Obligations.JumpIsAbsolute := by
  intro nnn s
  exact ⟨decode_fmtNNN_jp nnn, s.setPc (addrOf nnn), exec_jp nnn s, toNat_addrOf nnn, rfl⟩

/-- Settles O25: both instructions are one conditional skip, on equality and on inequality. -/
theorem skipsOnImmediate : Obligations.SkipsOnImmediate := by
  intro x nn s
  refine ⟨decode_fmtXNN_seImm x nn, decode_fmtXNN_sneImm x nn, ?_, ?_⟩
  · rw [exec_seImm, State.skipIf_of_iff s beq_iff_eq]
  · rw [exec_sneImm, State.skipIf_of_iff s bne_iff_ne]

end Sys2Proof.Proofs
end

section
/-! Register loads (41_alu): LD Vx, nn and LD Vx, Vy. -/

namespace Sys2Proof

/-- The word 6XNN is LD Vx, nn (30_encoding R96). -/
@[simp] theorem decode_fmtXNN_ldImm (x : Nibble) (nn : Byte) : decode (fmtXNN 0x6#4 x nn) = .ok (.ldImm x nn) := by
  simp [decode]

/-- The word 8XY0 is LD Vx, Vy (30_encoding R96). -/
@[simp] theorem decode_fmtXYN_ldReg (x y : Nibble) : decode (fmtXYN 0x8#4 x y 0x0#4) = .ok (.ldReg x y) := by
  simp [decode, decode8]

end Sys2Proof

namespace Sys2Proof.Machine

theorem exec_ldImm (x : Nibble) (nn : Byte) (s : State) : exec (.ldImm x nn) s = .next (s.setV x nn) := rfl

theorem exec_ldReg (x y : Nibble) (s : State) : exec (.ldReg x y) s = .next (s.setV x (s.getV y)) := rfl

/-- The frame of a register write, read at every register: VF is no exception (10_state R32, R33). -/
theorem State.setV_writes_only (s : State) (x : Nibble) (b : Byte) :
    (s.setV x b).getV x = b ∧ (∀ z, z ≠ x → (s.setV x b).getV z = s.getV z) ∧ s.setV x b = { s with v := (s.setV x b).v } :=
  ⟨s.getV_setV_same x b, fun _ h => s.getV_setV_ne b h, rfl⟩

end Sys2Proof.Machine

namespace Sys2Proof.Proofs

open Machine

/-- Settles O33: both loads are one register write, of nn and of the old V[y]. -/
theorem loadsWriteOneRegister : Obligations.LoadsWriteOneRegister := by
  intro x y nn s
  refine ⟨decode_fmtXNN_ldImm x nn, decode_fmtXYN_ldReg x y, ?_, ?_⟩
  · exact ⟨s.setV x nn, exec_ldImm x nn s, s.setV_writes_only x nn⟩
  · exact ⟨s.setV x (s.getV y), exec_ldReg x y s, s.setV_writes_only x (s.getV y)⟩

end Sys2Proof.Proofs
end

section
/-! Index register (42_index_memory): LD I, nnn. -/

namespace Sys2Proof

/-- The word ANNN is LD I, nnn (30_encoding R96). -/
@[simp] theorem decode_fmtNNN_ldI (nnn : Addr12) : decode (fmtNNN 0xA#4 nnn) = .ok (.ldI nnn) := by
  simp [decode]

end Sys2Proof

namespace Sys2Proof.Machine

theorem exec_ldI (nnn : Addr12) (s : State) : exec (.ldI nnn) s = .next (s.setI (addrOf nnn)) := rfl

end Sys2Proof.Machine

namespace Sys2Proof.Proofs

open Machine

/-- Settles O40: the decoded word sets I to the zero-extended address, and `setI` touches no other field. -/
theorem indexLoadsAddress : Obligations.IndexLoadsAddress := by
  intro nnn s
  exact ⟨decode_fmtNNN_ldI nnn, s.setI (addrOf nnn), exec_ldI nnn s, toNat_addrOf nnn, rfl⟩

end Sys2Proof.Proofs
end

section
/-! Timers and keys (43_timers_keys): the two counter writes, key events and the completion of a key-wait. -/

namespace Sys2Proof

/-- The word FX15 is LD DT, Vx (30_encoding R96). -/
@[simp] theorem decode_fmtXNN_ldDTVx (x : Nibble) : decode (fmtXNN 0xF#4 x 0x15#8) = .ok (.ldDTVx x) := by
  simp [decode, decodeF]

/-- The word FX18 is LD ST, Vx (30_encoding R96). -/
@[simp] theorem decode_fmtXNN_ldSTVx (x : Nibble) : decode (fmtXNN 0xF#4 x 0x18#8) = .ok (.ldSTVx x) := by
  simp [decode, decodeF]

end Sys2Proof

namespace Sys2Proof.Machine

theorem exec_ldDTVx (x : Nibble) (s : State) : exec (.ldDTVx x) s = .next { s with delayTimer := s.getV x } := rfl

theorem exec_ldSTVx (x : Nibble) (s : State) : exec (.ldSTVx x) s = .next { s with soundTimer := s.getV x } := rfl

/-- The sound level is on exactly while the counter is positive (60_exceptions R316). -/
theorem State.beep_iff (s : State) : s.beep = true ↔ 1 ≤ s.soundTimer.toNat := by
  have hpos : s.soundTimer ≠ 0#8 ↔ s.soundTimer.toNat ≠ 0 := not_congr BitVec.toNat_inj.symm
  rw [State.beep, decide_eq_true_iff, hpos, Nat.one_le_iff_ne_zero]

theorem State.getLsbD_pressKey_keyboard (s : State) (k : Key) (j : Nat) :
    (s.pressKey k).keyboard.getLsbD j = (s.keyboard.getLsbD j || decide (j = k.val)) := by
  rw [State.pressKey_keyboard, BitVec.getLsbD_or, getLsbD_keyMask]

/-- Bits from 16 on read as 0 in the old mask already, so the complement needs no bound on `j`. -/
theorem State.getLsbD_releaseKey_keyboard (s : State) (k : Key) (j : Nat) :
    (s.releaseKey k).keyboard.getLsbD j = (s.keyboard.getLsbD j && !decide (j = k.val)) := by
  rw [State.releaseKey_keyboard, BitVec.getLsbD_and, BitVec.getLsbD_not, getLsbD_keyMask]
  by_cases hj : j < 16
  · simp [hj]
  · simp [BitVec.getLsbD_of_ge s.keyboard j (by omega)]

theorem State.keyDown_of_running {s : State} (k : Key) (hs : s.awaitingKey = false) :
    s.keyDown k = .next (s.pressKey k) := by
  simp [State.keyDown, hs]

theorem State.keyWaitComplete_of_fetch {s : State} {op : Word} (k : Key) (hop : s.mem.fetch16 s.pc.toNat = .ok op) :
    s.keyWaitComplete k =
      .next { s.setV (opX op) (BitVec.ofNat 8 k.val) with awaitingKey := false, pc := s.pc + 2 } := by
  simp [State.keyWaitComplete, hop]

/-- A key-down during a wait completes it from the pressed state, whose memory and pc are the old ones (43_timers_keys R234). -/
theorem State.keyDown_of_awaiting {s : State} {op : Word} (k : Key) (hs : s.awaitingKey = true)
    (hop : s.mem.fetch16 s.pc.toNat = .ok op) :
    s.keyDown k =
      .next { (s.pressKey k).setV (opX op) (BitVec.ofNat 8 k.val) with awaitingKey := false, pc := s.pc + 2 } := by
  rw [State.keyDown, if_pos hs]
  exact State.keyWaitComplete_of_fetch k hop

/-- A key fits in a register. -/
theorem toNat_ofNat_key (k : Key) : (BitVec.ofNat 8 k.val).toNat = k.val :=
  Nat.mod_eq_of_lt (by omega)

theorem State.perform_keyDown (k : Key) (s : State) : s.perform (.keyDown k) = { s with reply := .noOutput }.keyDown k := rfl

theorem State.perform_keyUp (k : Key) (s : State) :
    s.perform (.keyUp k) = .next ({ s with reply := .noOutput }.releaseKey k) := rfl

end Sys2Proof.Machine

namespace Sys2Proof.Proofs

open Machine

/-- Settles O50: each instruction is one field update, and the sound level is read off the counter just written. -/
theorem timerWritesSetTheCounter : Obligations.TimerWritesSetTheCounter := by
  intro x s
  refine ⟨decode_fmtXNN_ldDTVx x, decode_fmtXNN_ldSTVx x, exec_ldDTVx x s, ?_⟩
  exact ⟨_, exec_ldSTVx x s, rfl, State.beep_iff _, rfl⟩

/-- Settles O52: a key-down presses, and in a wait then completes it by one register write at the opcode that pc still addresses;
a key-up only releases. -/
theorem keyEventsAndCompletion : Obligations.KeyEventsAndCompletion := by
  intro k s
  refine ⟨⟨(s.pressKey k).keyboard, s.getLsbD_pressKey_keyboard k, fun hs => ?running, fun op hs hop => ?awaiting⟩,
    ⟨(s.releaseKey k).keyboard, s.getLsbD_releaseKey_keyboard k, s.perform_keyUp k⟩⟩
  case running => exact (s.perform_keyDown k).trans (State.keyDown_of_running k hs)
  case awaiting =>
    obtain ⟨hx, hne, -⟩ := s.setV_writes_only (opX op) (BitVec.ofNat 8 k.val)
    refine ⟨_, (s.perform_keyDown k).trans (State.keyDown_of_awaiting k hs hop), ?_, hne, rfl⟩
    exact (congrArg BitVec.toNat hx).trans (toNat_ofNat_key k)

end Sys2Proof.Proofs
end

section
/-! Display (44_display): CLS. -/

namespace Sys2Proof

/-- The word 00E0 is CLS, which family 0 takes before SYS (30_encoding R97). -/
@[simp] theorem decode_00E0_cls : decode 0x00E0#16 = .ok .cls := rfl

end Sys2Proof

namespace Sys2Proof.Machine

theorem exec_cls (s : State) : exec .cls s = .next { s with framebuffer := Framebuffer.clear } := rfl

end Sys2Proof.Machine

namespace Sys2Proof.Proofs

open Machine

/-- Settles O53: CLS replaces the framebuffer by the clear one, where every pixel reads off, and writes no other field. -/
theorem clearTurnsAllPixelsOff : Obligations.ClearTurnsAllPixelsOff := by
  intro s
  exact ⟨decode_00E0_cls, _, exec_cls s, fun r c _ _ => Framebuffer.pixel_clear r c, rfl⟩

end Sys2Proof.Proofs
end

section
/-! The decoder and the encoder (30_encoding): the row each format decodes to, the word each decoded instruction came from, and the
words no row takes. -/

namespace Sys2Proof

/-! ### From a format to its row (30_encoding R96), for the rows that have no such lemma above -/

@[simp] theorem decode_00EE_ret : decode 0x00EE#16 = .ok .ret := rfl

/-- Family 0 keeps two values of `nnn` for CLS and RET (30_encoding R97). -/
theorem decode_fmtNNN_sys {nnn : Addr12} (h : sysReserved nnn = false) : decode (fmtNNN 0x0#4 nnn) = .ok (.sys nnn) := by
  simp only [sysReserved, Bool.or_eq_false_iff, beq_eq_false_iff_ne] at h
  obtain ⟨hcls, hret⟩ := h
  have hword : ∀ w : Word, nnn ≠ opNNN w → fmtNNN 0x0#4 nnn ≠ w := by
    rintro w hn rfl
    exact hn (opNNN_fmtNNN 0x0#4 nnn).symm
  have h0 : decode0 (fmtNNN 0x0#4 nnn) = .sys nnn := by
    rw [decode0, if_neg (hword 0x00E0#16 hcls), if_neg (hword 0x00EE#16 hret), opNNN_fmtNNN]
  simp [decode, h0]

@[simp] theorem decode_fmtNNN_call (nnn : Addr12) : decode (fmtNNN 0x2#4 nnn) = .ok (.call nnn) := by simp [decode]
@[simp] theorem decode_fmtNNN_jpV0 (nnn : Addr12) : decode (fmtNNN 0xB#4 nnn) = .ok (.jpV0 nnn) := by simp [decode]
@[simp] theorem decode_fmtXNN_addImm (x : Nibble) (nn : Byte) : decode (fmtXNN 0x7#4 x nn) = .ok (.addImm x nn) := by
  simp [decode]
@[simp] theorem decode_fmtXNN_rnd (x : Nibble) (nn : Byte) : decode (fmtXNN 0xC#4 x nn) = .ok (.rnd x nn) := by simp [decode]
@[simp] theorem decode_fmtXYN_drw (x y n : Nibble) : decode (fmtXYN 0xD#4 x y n) = .ok (.drw x y n) := by simp [decode]
@[simp] theorem decode_fmtXYN_seReg (x y : Nibble) : decode (fmtXYN 0x5#4 x y 0x0#4) = .ok (.seReg x y) := by simp [decode]
@[simp] theorem decode_fmtXYN_sneReg (x y : Nibble) : decode (fmtXYN 0x9#4 x y 0x0#4) = .ok (.sneReg x y) := by simp [decode]

/-! ### From a word back to its format (30_encoding R94) -/

theorem fmtNNN_of_fields {op : Word} {f : Nibble} (hf : opFamily op = f) : fmtNNN f (opNNN op) = op :=
  hf ▸ fmtNNN_fields op

theorem fmtXNN_of_fields {op : Word} {f : Nibble} (hf : opFamily op = f) : fmtXNN f (opX op) (opNN op) = op :=
  hf ▸ fmtXNN_fields op

theorem fmtXNN_of_selector {op : Word} {f : Nibble} {nn : Byte} (hf : opFamily op = f) (hn : opNN op = nn) :
    fmtXNN f (opX op) nn = op :=
  hn ▸ fmtXNN_of_fields hf

theorem fmtXYN_of_fields {op : Word} {f : Nibble} (hf : opFamily op = f) : fmtXYN f (opX op) (opY op) (opN op) = op :=
  hf ▸ fmtXYN_fields op

theorem fmtXYN_of_selector {op : Word} {f n : Nibble} (hf : opFamily op = f) (hn : opN op = n) :
    fmtXYN f (opX op) (opY op) n = op :=
  hn ▸ fmtXYN_of_fields hf

/-- `i` is a well-formed reading of the word `op` (30_encoding R99). -/
def Reads (op : Word) (i : Instr) : Prop := i.WellFormed = true ∧ encode i = op

theorem reads_decode0 {op : Word} (hf : opFamily op = 0x0#4) : Reads op (decode0 op) := by
  have hw : fmtNNN 0x0#4 (opNNN op) = op := fmtNNN_of_fields hf
  unfold decode0
  split
  case isTrue h => exact ⟨rfl, h.symm⟩
  case isFalse hcls =>
    split
    case isTrue h => exact ⟨rfl, h.symm⟩
    case isFalse hret =>
      have hfree : ∀ a : Addr12, fmtNNN 0x0#4 a ≠ op → opNNN op ≠ a := fun a ha e => ha (e ▸ hw)
      refine ⟨?_, hw⟩
      simp [Instr.WellFormed, sysReserved, hfree 0x0E0#12 (Ne.symm hcls), hfree 0x0EE#12 (Ne.symm hret)]

theorem reads_decode8 {op : Word} {i : Instr} (hf : opFamily op = 0x8#4) (h : decode8 op = .ok i) : Reads op i := by
  unfold decode8 at h
  split at h <;> cases h <;> exact ⟨rfl, fmtXYN_of_selector hf ‹_›⟩

theorem reads_decodeE {op : Word} {i : Instr} (hf : opFamily op = 0xE#4) (h : decodeE op = .ok i) : Reads op i := by
  unfold decodeE at h
  split at h <;> cases h <;> exact ⟨rfl, fmtXNN_of_selector hf ‹_›⟩

theorem reads_decodeF {op : Word} {i : Instr} (hf : opFamily op = 0xF#4) (h : decodeF op = .ok i) : Reads op i := by
  unfold decodeF at h
  split at h <;> cases h <;> exact ⟨rfl, fmtXNN_of_selector hf ‹_›⟩

/-- The converse of decoding, family by family: case `h_k` is family k - 1, and the last is the empty rest. -/
theorem reads_of_decode {op : Word} {i : Instr} (h : decode op = .ok i) : Reads op i := by
  unfold decode at h
  split at h
  case h_1 hf => cases h; exact reads_decode0 hf
  case h_6 hf =>
    split at h <;> cases h
    exact ⟨rfl, fmtXYN_of_selector hf ‹_›⟩
  case h_9 hf => exact reads_decode8 hf h
  case h_10 hf =>
    split at h <;> cases h
    exact ⟨rfl, fmtXYN_of_selector hf ‹_›⟩
  case h_14 hf => cases h; exact ⟨rfl, fmtXYN_of_fields hf⟩
  case h_15 hf => exact reads_decodeE hf h
  case h_16 hf => exact reads_decodeF hf h
  case h_17 => cases h
  case h_2 hf | h_3 hf | h_11 hf | h_12 hf => cases h; exact ⟨rfl, fmtNNN_of_fields hf⟩
  case h_4 hf | h_5 hf | h_7 hf | h_8 hf | h_13 hf => cases h; exact ⟨rfl, fmtXNN_of_fields hf⟩

/-! ### The words no row takes (30_encoding R98) -/

theorem decode8_error_iff (op : Word) :
    decode8 op = .error (.unsupportedOpcode op) ↔ opN op ∈ [0x8#4, 0x9#4, 0xA#4, 0xB#4, 0xC#4, 0xD#4, 0xF#4] := by
  have hrest : ∀ n : Nibble, n ≠ 0x0#4 → n ≠ 0x1#4 → n ≠ 0x2#4 → n ≠ 0x3#4 → n ≠ 0x4#4 → n ≠ 0x5#4 → n ≠ 0x6#4 → n ≠ 0x7#4 →
      n ≠ 0xE#4 → n ∈ [0x8#4, 0x9#4, 0xA#4, 0xB#4, 0xC#4, 0xD#4, 0xF#4] := by decide
  unfold decode8
  split
  case h_10 => exact iff_of_true rfl (by apply hrest <;> assumption)
  all_goals rename_i hn; simp [hn]

theorem decodeE_error_iff (op : Word) :
    decodeE op = .error (.unsupportedOpcode op) ↔ opNN op ∉ [0x9E#8, 0xA1#8] := by
  unfold decodeE
  split <;> simp_all

theorem decodeF_error_iff (op : Word) :
    decodeF op = .error (.unsupportedOpcode op) ↔
      opNN op ∉ [0x07#8, 0x0A#8, 0x15#8, 0x18#8, 0x1E#8, 0x29#8, 0x33#8, 0x55#8, 0x65#8] := by
  unfold decodeF
  split <;> simp_all

end Sys2Proof

namespace Sys2Proof.Proofs

/-- Settles O2: an instruction is encoded in the format of its row, and each row decodes from its format. -/
theorem decodeOfEncode : Obligations.DecodeOfEncode := by
  intro i hwf
  cases i with
  | cls => exact decode_00E0_cls
  | ret => exact decode_00EE_ret
  | sys nnn => exact decode_fmtNNN_sys (by simpa [Instr.WellFormed] using hwf)
  | jp nnn => exact decode_fmtNNN_jp nnn
  | call nnn => exact decode_fmtNNN_call nnn
  | ldI nnn => exact decode_fmtNNN_ldI nnn
  | jpV0 nnn => exact decode_fmtNNN_jpV0 nnn
  | seImm x nn => exact decode_fmtXNN_seImm x nn
  | sneImm x nn => exact decode_fmtXNN_sneImm x nn
  | ldImm x nn => exact decode_fmtXNN_ldImm x nn
  | addImm x nn => exact decode_fmtXNN_addImm x nn
  | rnd x nn => exact decode_fmtXNN_rnd x nn
  | drw x y n => exact decode_fmtXYN_drw x y n
  | seReg x y => exact decode_fmtXYN_seReg x y
  | sneReg x y => exact decode_fmtXYN_sneReg x y
  | ldReg x y | orReg x y | andReg x y | xorReg x y | addReg x y | sub x y | shr x y | subn x y | shl x y =>
    simp [encode, decode, decode8]
  | skp x | sknp x => simp [encode, decode, decodeE]
  | ldVxDT x | ldVxK x | ldDTVx x | ldSTVx x | addIVx x | ldFVx x | ldBVx x | stRegs x | ldRegs x =>
    simp [encode, decode, decodeF]

/-- Settles O3. -/
theorem encodeOfDecode : Obligations.EncodeOfDecode := fun _ _ h => reads_of_decode h

/-- Settles O4: the family fixes which of the five patterns can hold, and the tables of families 8, E and F are total otherwise. -/
theorem unsupportedPatternsExactly : Obligations.UnsupportedPatternsExactly := by
  intro op
  have hrange : ∀ f : Nibble, f ∈ [0x0#4, 0x1#4, 0x2#4, 0x3#4, 0x4#4, 0x5#4, 0x6#4, 0x7#4, 0x8#4, 0x9#4, 0xA#4, 0xB#4, 0xC#4,
      0xD#4, 0xE#4, 0xF#4] := by decide
  unfold decode
  split
  case h_9 hf => simp [hf, decode8_error_iff]
  case h_15 hf => simp [hf, decodeE_error_iff]
  case h_16 hf => simp [hf, decodeF_error_iff]
  case h_17 => exact absurd (hrange (opFamily op)) (by simp_all)
  case h_6 hf | h_10 hf => by_cases hn : opN op = 0x0#4 <;> simp [hf, hn]
  all_goals rename_i hf; simp [hf]

/-- Settles O1: each word is a closed computation of the decoder. -/
theorem knownWordsDecode : Obligations.KnownWordsDecode := by
  unfold Obligations.KnownWordsDecode
  decide

end Sys2Proof.Proofs
end

section
/-! What an instruction can do, said once for all 35 (40_flow to 44_display), and the whole-machine rules read off it. -/

namespace Sys2Proof.Machine

/-- Where an instruction can leave pc (40_flow R130 to R139, 43_timers_keys R233). -/
inductive PcTarget (ins : Instr) (s : State) : Word → Prop
  | following : PcTarget ins s s.pc
  | skipping : PcTarget ins s (s.pc + 2)
  | jumping (nnn : Addr12) : PcTarget ins s (addrOf nnn)
  | jumpingPast (nnn : Addr12) (b : Byte) : PcTarget ins s (addrOf nnn + zext16 b)
  | returning (j : Fin 16) (hj : j.val < s.sp.val) : PcTarget ins s s.stack[j]
  | waiting (x : Nibble) (hi : ins = .ldVxK x) : PcTarget ins s (s.pc - 2)

/-- What the instruction `ins` may do from `s` to `t`: an error commits nothing, and each field has its own writers. -/
structure Effect (ins : Instr) (s t : State) : Prop where
  record : (∃ e, t = s.raise e) ∨ (t.error = s.error ∧ t.reply = s.reply)
  keyboard : t.keyboard = s.keyboard
  lastTick : t.lastTick = s.lastTick
  session : t.session = s.session
  rnd : t.rnd = s.rnd
  inputs : t.inputs = s.inputs
  inputIndex : t.inputIndex = s.inputIndex
  mem : (∀ x, ins ≠ .ldBVx x) → (∀ x, ins ≠ .stRegs x) → t.mem = s.mem
  memWf : s.mem.wf → t.mem.wf
  framebuffer : ins ≠ .cls → (∀ x y n, ins ≠ .drw x y n) → t.framebuffer = s.framebuffer
  stack : (∀ a, ins ≠ .call a) → t.stack = s.stack
  sp : (∀ a, ins ≠ .call a) → ins ≠ .ret → t.sp = s.sp
  returnAddress : ∀ j : Fin 16, j.val < t.sp.val → t.stack[j] = s.pc ∨ (j.val < s.sp.val ∧ t.stack[j] = s.stack[j])
  delayTimer : (∀ x, ins ≠ .ldDTVx x) → t.delayTimer = s.delayTimer
  soundTimer : (∀ x, ins ≠ .ldSTVx x) → t.soundTimer = s.soundTimer
  index : (∀ a, ins ≠ .ldI a) → (∀ x, ins ≠ .addIVx x) → (∀ x, ins ≠ .ldFVx x) → t.i = s.i
  awaitingKey : (∀ x, ins ≠ .ldVxK x) → t.awaitingKey = s.awaitingKey
  pc : PcTarget ins s t.pc

/-- An instruction that writes registers and pc only. -/
theorem Effect.of_v_pc (ins : Instr) (s : State) (v : Vector Byte 16) {p : Word} (hp : PcTarget ins s p) :
    Effect ins s { s with v := v, pc := p } where
  record := .inr ⟨rfl, rfl⟩
  keyboard := rfl
  lastTick := rfl
  session := rfl
  rnd := rfl
  inputs := rfl
  inputIndex := rfl
  mem _ _ := rfl
  memWf h := h
  framebuffer _ _ := rfl
  stack _ := rfl
  sp _ _ := rfl
  returnAddress _ hj := .inr ⟨hj, rfl⟩
  delayTimer _ := rfl
  soundTimer _ := rfl
  index _ _ _ := rfl
  awaitingKey _ := rfl
  pc := hp

theorem Effect.refl (ins : Instr) (s : State) : Effect ins s s := Effect.of_v_pc ins s s.v .following

theorem Effect.raise (ins : Instr) (s : State) (e : ErrorInfo) : Effect ins s (s.raise e) :=
  { Effect.refl ins s with record := .inl ⟨e, rfl⟩ }

theorem Effect.setV (ins : Instr) (s : State) (x : Nibble) (b : Byte) : Effect ins s (s.setV x b) :=
  Effect.of_v_pc ins s _ .following

theorem Effect.setResult (ins : Instr) (s : State) (x : Nibble) (r : Byte) (flag : Bool) : Effect ins s (s.setResult x r flag) :=
  Effect.of_v_pc ins s _ .following

theorem Effect.setLogic (ins : Instr) (s : State) (x : Nibble) (r : Byte) :
    Effect ins s (s.setLogic Params.logicClearsVF x r) :=
  Effect.of_v_pc ins s _ .following

theorem Effect.setPc {ins : Instr} {s : State} {p : Word} (hp : PcTarget ins s p) : Effect ins s (s.setPc p) :=
  Effect.of_v_pc ins s s.v hp

theorem Effect.skipIf (ins : Instr) (s : State) : ∀ c : Bool, Effect ins s (s.skipIf c)
  | true => Effect.of_v_pc ins s s.v .skipping
  | false => Effect.refl ins s

theorem Effect.setI {ins : Instr} (s : State) (a : Word)
    (hi : (∃ a, ins = .ldI a) ∨ (∃ x, ins = .addIVx x) ∨ (∃ x, ins = .ldFVx x)) : Effect ins s (s.setI a) :=
  { Effect.refl ins s with
    record := .inr ⟨rfl, rfl⟩
    index := fun h1 h2 h3 => by
      rcases hi with ⟨a, ha⟩ | ⟨x, hx⟩ | ⟨x, hx⟩
      · exact absurd ha (h1 a)
      · exact absurd hx (h2 x)
      · exact absurd hx (h3 x) }

/-- What CALL commits: its return address is the only slot below the new sp that need not be an old one. -/
theorem Effect.call (nnn : Addr12) (s : State) (hs : s.sp.val < 16) :
    Effect (.call nnn) s
      { s with stack := s.stack.set s.sp.val s.pc hs, sp := ⟨s.sp.val + 1, Nat.succ_lt_succ hs⟩, pc := addrOf nnn } :=
  { Effect.of_v_pc (.call nnn) s s.v (.jumping nnn) with
    record := .inr ⟨rfl, rfl⟩
    stack := fun h => absurd rfl (h nnn)
    sp := fun h => absurd rfl (h nnn)
    returnAddress := fun j (hj : j.val < s.sp.val + 1) => by
      rcases Nat.lt_succ_iff_lt_or_eq.1 hj with h | h
      · exact .inr ⟨h, Vector.getElem_set_ne hs j.isLt (Nat.ne_of_gt h)⟩
      · exact .inl (by simp [← h]) }

/-- What RET commits: it keeps every slot and names the last one in use (decision D28). -/
theorem Effect.ret (s : State) (hs : 0 < s.sp.val) (hj : s.sp.val - 1 < 16) (hk : s.sp.val - 1 < 17) :
    Effect .ret s { s with sp := ⟨s.sp.val - 1, hk⟩, pc := s.stack[s.sp.val - 1] } :=
  { Effect.of_v_pc .ret s s.v (.returning ⟨s.sp.val - 1, hj⟩ (Nat.sub_one_lt_of_lt hs)) with
    record := .inr ⟨rfl, rfl⟩
    sp := fun _ h => absurd rfl h
    returnAddress := fun _ h => .inr ⟨Nat.lt_of_lt_of_le h (Nat.sub_le _ 1), rfl⟩ }

/-- A block write in range, by one of the two instructions that write memory. -/
theorem Effect.writeBytes {ins : Instr} (s : State) (bs : List Byte) (hi : (∃ x, ins = .ldBVx x) ∨ ∃ x, ins = .stRegs x)
    (hr : s.i.toNat + bs.length ≤ Config.memSize) : Effect ins s { s with mem := s.mem.writeBytes s.i.toNat bs } :=
  { Effect.refl ins s with
    record := .inr ⟨rfl, rfl⟩
    mem := fun h1 h2 => by
      rcases hi with ⟨x, hx⟩ | ⟨x, hx⟩
      · exact absurd hx (h1 x)
      · exact absurd hx (h2 x)
    memWf := fun h => Memory.wf_writeBytes h (.inr hr) }

/-- Every instruction has a next state, and its effect is the one above: no meaning ends in a fault or a refusal. -/
theorem exec_effect (ins : Instr) (s : State) : ∃ t, exec ins s = .next t ∧ Effect ins s t := by
  cases ins with
  | cls =>
    exact ⟨_, rfl, { Effect.refl .cls s with record := .inr ⟨rfl, rfl⟩, framebuffer := fun h => absurd rfl h }⟩
  | ret =>
    rcases execRet_cases s with ⟨-, e⟩ | ⟨hs, hj, hk, e⟩
    · exact ⟨_, e, .raise ..⟩
    · exact ⟨_, e, .ret s hs hj hk⟩
  | call nnn =>
    rcases execCall_cases nnn s with ⟨-, e⟩ | ⟨hs, e⟩
    · exact ⟨_, e, .raise ..⟩
    · exact ⟨_, e, .call nnn s hs⟩
  | sys nnn => exact ⟨_, rfl, .raise ..⟩
  | jp nnn => exact ⟨_, rfl, .setPc (.jumping nnn)⟩
  | jpV0 nnn => exact ⟨_, rfl, .setPc (.jumpingPast nnn _)⟩
  | seImm x nn | sneImm x nn => exact ⟨_, rfl, .skipIf ..⟩
  | seReg x y | sneReg x y => exact ⟨_, rfl, .skipIf ..⟩
  | skp x | sknp x => exact ⟨_, rfl, .skipIf ..⟩
  | ldImm x nn | addImm x nn | rnd x nn => exact ⟨_, rfl, .setV ..⟩
  | ldReg x y => exact ⟨_, rfl, .setV ..⟩
  | ldVxDT x => exact ⟨_, rfl, .setV ..⟩
  | orReg x y | andReg x y | xorReg x y => exact ⟨_, rfl, .setLogic ..⟩
  | addReg x y | sub x y | shr x y | subn x y | shl x y => exact ⟨_, rfl, .setResult ..⟩
  | ldI nnn => exact ⟨_, rfl, .setI s _ (.inl ⟨nnn, rfl⟩)⟩
  | addIVx x => exact ⟨_, rfl, .setI s _ (.inr (.inl ⟨x, rfl⟩))⟩
  | ldFVx x => exact ⟨_, rfl, .setI s _ (.inr (.inr ⟨x, rfl⟩))⟩
  | drw x y n =>
    rcases execDrw_cases x y n s with ⟨-, -, e⟩ | ⟨-, e⟩
    · exact ⟨_, e, .raise ..⟩
    · exact ⟨_, e, { Effect.refl (.drw x y n) s with
        record := .inr ⟨rfl, rfl⟩, framebuffer := fun _ h => absurd rfl (h x y n) }⟩
  | ldVxK x =>
    exact ⟨_, rfl, { Effect.of_v_pc (.ldVxK x) s s.v (.waiting x rfl) with
      record := .inr ⟨rfl, rfl⟩, awaitingKey := fun h => absurd rfl (h x) }⟩
  | ldDTVx x =>
    exact ⟨_, rfl, { Effect.refl (.ldDTVx x) s with record := .inr ⟨rfl, rfl⟩, delayTimer := fun h => absurd rfl (h x) }⟩
  | ldSTVx x =>
    exact ⟨_, rfl, { Effect.refl (.ldSTVx x) s with record := .inr ⟨rfl, rfl⟩, soundTimer := fun h => absurd rfl (h x) }⟩
  | ldBVx x =>
    rcases execLdBVx_cases x s with ⟨-, e⟩ | ⟨hr, e⟩
    · exact ⟨_, e, .raise ..⟩
    · exact ⟨_, e, .writeBytes s _ (.inl ⟨x, rfl⟩) (by rw [bcdDigits_length]; exact Nat.succ_le_succ hr)⟩
  | stRegs x =>
    rcases execStRegs_cases x s with ⟨-, e⟩ | ⟨hr, e⟩
    · exact ⟨_, e, .raise ..⟩
    · exact ⟨_, e, .writeBytes s _ (.inr ⟨x, rfl⟩) (by rw [State.firstV_length s _ x.isLt]; exact Nat.succ_le_succ hr)⟩
  | ldRegs x =>
    rcases execLdRegs_cases x s with ⟨-, e⟩ | ⟨-, e⟩
    · exact ⟨_, e, .raise ..⟩
    · exact ⟨_, e, .of_v_pc _ s _ .following⟩

theorem Effect.of_exec {ins : Instr} {s t : State} (h : exec ins s = .next t) : Effect ins s t := by
  obtain ⟨t', e, heff⟩ := exec_effect ins s
  obtain rfl : t' = t := Host.Outcome.next.inj (e.symm.trans h)
  exact heff

end Sys2Proof.Machine

namespace Sys2Proof.Proofs

open Machine

/-- Settles O10: an instruction either raises, which commits nothing, or keeps the reply, which was ok. -/
theorem instructionErrorsCommitNothing : Obligations.InstructionErrorsCommitNothing := by
  intro i s t e hok h he
  rcases (Effect.of_exec h).record with ⟨e', rfl⟩ | ⟨-, hreply⟩
  · obtain rfl : e' = e := Reply.error.inj he
    rfl
  · rw [hreply, hok] at he
    cases he

/-- Settles O16. -/
theorem memoryAndScreenHaveTheirWriters : Obligations.MemoryAndScreenHaveTheirWriters := by
  intro i s t h
  have heff := Effect.of_exec h
  exact ⟨fun h1 h2 a => by rw [heff.mem h1 h2], fun h1 h2 r c => by rw [heff.framebuffer h1 h2]⟩

/-- Settles O17. -/
theorem instructionsLeaveHostStateAlone : Obligations.InstructionsLeaveHostStateAlone := by
  intro i s t h
  have heff := Effect.of_exec h
  exact ⟨heff.keyboard, heff.lastTick, heff.session, heff.rnd, heff.inputs, heff.inputIndex⟩

/-- Settles O18. -/
theorem controlStateHasItsWriters : Obligations.ControlStateHasItsWriters := by
  intro i s t h
  have heff := Effect.of_exec h
  exact ⟨heff.stack, heff.sp, heff.delayTimer, heff.soundTimer, heff.index, heff.awaitingKey⟩

end Sys2Proof.Proofs
end

section
/-! What one host operation and one transition can do, said once (30_encoding R95, 60_exceptions R319), and the rules about errors,
suspension and timers read off it. -/

namespace Sys2Proof.Machine

/-- The state a `step(now, rnd)` fetches from: the reply cleared and the timer gate run (30_encoding R95, decision D15). -/
def State.readied (now : Rat) (s : State) : State := { s with reply := .ok }.timerGate now

theorem State.perform_step (now : Rat) (r : Byte) (s : State) : s.perform (.step now r) = s.hostStep now r := rfl

theorem State.perform_load (bytes : List Byte) (s : State) : s.perform (.load bytes) = s.hostLoad bytes := rfl

theorem State.perform_step_suspended {s : State} (now : Rat) (r : Byte) (hs : s.session = .loaded) (hk : s.awaitingKey = true) :
    s.perform (.step now r) = .next (s.raise .invalidState) := by
  simp [State.perform_step, State.hostStep, hs, hk]

theorem State.perform_step_running {s : State} (now : Rat) (r : Byte) (hs : s.session = .loaded) (hk : s.awaitingKey = false) :
    s.perform (.step now r) = (s.readied now).cycle r := by
  rcases s.hostStep_cases now r with ⟨hns, -⟩ | ⟨-, hnk, -⟩ | ⟨-, -, e⟩
  · exact absurd hs hns
  · simp [hk] at hnk
  · exact e

theorem State.cycle_of_decode {s : State} {op : Word} {ins : Instr} (r : Byte) (hop : s.mem.fetch16 s.pc.toNat = .ok op)
    (hi : decode op = .ok ins) : s.cycle r = exec ins (s.fetched r) := by
  simp [State.cycle, hop, hi]

theorem State.cycle_of_decode_error {s : State} {op : Word} {e : DecodeError} (r : Byte) (hop : s.mem.fetch16 s.pc.toNat = .ok op)
    (he : decode op = .error e) : s.cycle r = .next ((s.fetched r).raise (.unsupportedOpcode op s.pc)) := by
  simp [State.cycle, hop, he]

theorem State.cycle_of_unfetchable {s : State} (r : Byte) (hpc : 0xFFF < s.pc.toNat + 1) :
    s.cycle r = .next (s.raise (.memoryOutOfRange (s.pc.toNat + 1) none s.pc)) := by
  simp [State.cycle, Memory.fetch16_error.2 ⟨hpc, rfl⟩]

/-- A step of a running machine, from the fetch on, is the execution of what the word at pc decodes to. -/
theorem State.perform_step_executes {s : State} {op : Word} {ins : Instr} (now : Rat) (r : Byte) (hs : s.session = .loaded)
    (hk : s.awaitingKey = false) (hop : s.mem.fetch16 s.pc.toNat = .ok op) (hi : decode op = .ok ins) :
    s.perform (.step now r) = exec ins ((s.readied now).fetched r) := by
  rw [State.perform_step_running now r hs hk]
  exact State.cycle_of_decode r hop hi

/-- Everything a host operation can do, by the operation. -/
inductive Performs (s : State) : HostOp → State → Prop
  | loads (bytes : List Byte) (hs : s.session = .notLoaded) (hfit : bytes.length ≤ 3584) :
      Performs s (.load bytes)
        { s with mem := Memory.ofProgram 0x200 bytes, pc := 0x200#16, sp := 0, session := .loaded, reply := .ok }
  | loadFails (bytes : List Byte) (hs : s.session = .notLoaded) :
      Performs s (.load bytes) { s.raise (.programTooLarge bytes.length) with session := .failed }
  | stepsSuspended (now : Rat) (r : Byte) (hs : s.session = .loaded) (hk : s.awaitingKey = true) :
      Performs s (.step now r) (s.raise .invalidState)
  | fetchFails (now : Rat) (r : Byte) (hs : s.session = .loaded) (hk : s.awaitingKey = false) :
      Performs s (.step now r) ((s.readied now).raise (.memoryOutOfRange (s.pc.toNat + 1) none s.pc))
  | decodeFails (now : Rat) (r : Byte) (op : Word) (hs : s.session = .loaded) (hk : s.awaitingKey = false)
      (hop : s.mem.fetch16 s.pc.toNat = .ok op) :
      Performs s (.step now r) (((s.readied now).fetched r).raise (.unsupportedOpcode op s.pc))
  | executes (now : Rat) (r : Byte) (op : Word) (ins : Instr) (t : State) (hs : s.session = .loaded) (hk : s.awaitingKey = false)
      (hop : s.mem.fetch16 s.pc.toNat = .ok op) (hi : decode op = .ok ins)
      (ht : exec ins ((s.readied now).fetched r) = .next t) : Performs s (.step now r) t
  | presses (k : Key) (hk : s.awaitingKey = false) : Performs s (.keyDown k) ({ s with reply := .noOutput }.pressKey k)
  | completes (k : Key) (op : Word) (hk : s.awaitingKey = true) (hop : s.mem.fetch16 s.pc.toNat = .ok op) :
      Performs s (.keyDown k) { ({ s with reply := .noOutput }.pressKey k).setV (opX op) (BitVec.ofNat 8 k.val) with
        awaitingKey := false, pc := s.pc + 2 }
  | releases (k : Key) : Performs s (.keyUp k) ({ s with reply := .noOutput }.releaseKey k)
  | readsPixels : Performs s .readFramebuffer { s with reply := .pixels s.framebuffer }
  | readsSound : Performs s .soundLevel { s with reply := .sound s.beep s.soundTimer }
  | readsAwaiting : Performs s .isAwaitingKey { s with reply := .awaiting s.awaitingKey }

theorem Performs.of_load {s t : State} {bytes : List Byte} (h : s.perform (.load bytes) = .next t) : Performs s (.load bytes) t := by
  obtain ⟨hs, rfl⟩ := State.hostLoad_next h
  rcases s.load_cases bytes with ⟨-, e⟩ | ⟨hfit, e⟩ <;> rw [e]
  · exact .loadFails bytes hs
  · exact .loads bytes hs hfit

theorem Performs.of_step {s t : State} {now : Rat} {r : Byte} (h : s.perform (.step now r) = .next t) :
    Performs s (.step now r) t := by
  rw [State.perform_step] at h
  rcases s.hostStep_cases now r with ⟨-, e⟩ | ⟨hs, hk, e⟩ | ⟨hs, hk, e⟩ <;> rw [e] at h
  · cases h
  · cases h; exact .stepsSuspended now r hs hk
  · rcases (s.readied now).cycle_cases r with ⟨-, e'⟩ | ⟨op, e, hop, -, e'⟩ | ⟨op, ins, hop, hi, e'⟩ <;>
      replace h := e'.symm.trans h
    · cases h; exact .fetchFails now r hs hk
    · cases h; exact .decodeFails now r op hs hk hop
    · exact .executes now r op ins t hs hk hop hi h

theorem Performs.of_keyDown {s t : State} {k : Key} (h : s.perform (.keyDown k) = .next t) : Performs s (.keyDown k) t := by
  rcases State.keyDown_next ((s.perform_keyDown k).symm.trans h) with ⟨hk, rfl⟩ | ⟨hk, op, hop, rfl⟩
  · exact .presses k hk
  · exact .completes k op hk hop

theorem Performs.of_perform {s t : State} {op : HostOp} (h : s.perform op = .next t) : Performs s op t := by
  cases op with
  | load bytes => exact .of_load h
  | step now r => exact .of_step h
  | keyDown k => exact .of_keyDown h
  | keyUp k => cases h; exact .releases k
  | readFramebuffer => cases h; exact .readsPixels
  | soundLevel => cases h; exact .readsSound
  | isAwaitingKey => cases h; exact .readsAwaiting

/-- Taking the next operation moves the host's side only (log entry 1). -/
theorem State.takeInput_frame (s : State) : ∃ ins n, s.takeInput.2 = { s with inputs := ins, inputIndex := n } := by
  rcases s.takeInput_cases with ⟨op, rest, -, e⟩ | ⟨-, e⟩ <;> rw [e]
  · exact ⟨rest, s.inputIndex, rfl⟩
  · exact ⟨s.inputs, s.inputIndex + 1, rfl⟩

/-- A transition is one host operation, from a state that differs in the host's side only. -/
theorem Performs.of_transition {s t : State} (h : Machine.step s = .next t) :
    ∃ ins n, Performs { s with inputs := ins, inputIndex := n } s.takeInput.1 t := by
  obtain ⟨ins, n, e⟩ := s.takeInput_frame
  refine ⟨ins, n, .of_perform ?_⟩
  rw [← e]
  exact h

/-! ### Errors (60_exceptions R307, R308) -/

/-- From `s` to `t` either an error is handed back and recorded, or neither. -/
def Recorded (s t : State) : Prop :=
  (∃ e, t.error = some (s.error.getD e) ∧ t.reply = .error e) ∨ (t.error = s.error ∧ ∀ e, t.reply ≠ .error e)

theorem Effect.recorded {ins : Instr} {s t : State} (h : Effect ins s t) (hok : s.reply = .ok) : Recorded s t := by
  rcases h.record with ⟨e, rfl⟩ | ⟨herr, hreply⟩
  · exact .inl ⟨e, rfl, rfl⟩
  · exact .inr ⟨herr, fun e he => by rw [hreply, hok] at he; cases he⟩

theorem Performs.recorded {s t : State} {op : HostOp} (h : Performs s op t) : Recorded s t := by
  cases h with
  | loadFails bytes => exact .inl ⟨_, rfl, rfl⟩
  | stepsSuspended now r | fetchFails now r => exact .inl ⟨_, rfl, rfl⟩
  | decodeFails now r op => exact .inl ⟨_, rfl, rfl⟩
  | executes now r op ins t hs hk hop hi ht => exact (Effect.of_exec ht).recorded rfl
  | loads bytes => exact .inr ⟨rfl, nofun⟩
  | presses k | releases k => exact .inr ⟨rfl, nofun⟩
  | completes k op => exact .inr ⟨rfl, nofun⟩
  | readsPixels | readsSound | readsAwaiting => exact .inr ⟨rfl, nofun⟩

/-! ### Suspension (60_exceptions section 4, section 7) -/

/-- What an operation other than a key-down can do while a key is awaited: it neither ends the wait nor moves a timer. -/
theorem Performs.suspended {s t : State} {op : HostOp} (h : Performs s op t) (hs : s.awaitingKey = true) :
    (t.awaitingKey = true ∨ ∃ k, op = .keyDown k) ∧
    t.delayTimer = s.delayTimer ∧ t.soundTimer = s.soundTimer ∧ t.lastTick = s.lastTick := by
  cases h with
  | fetchFails now r _ hk => simp [hs] at hk
  | decodeFails now r op _ hk => simp [hs] at hk
  | executes now r op ins t _ hk => simp [hs] at hk
  | presses k | completes k op => exact ⟨.inr ⟨k, rfl⟩, rfl, rfl, rfl⟩
  | loads bytes | loadFails bytes => exact ⟨.inl hs, rfl, rfl, rfl⟩
  | stepsSuspended now r => exact ⟨.inl hs, rfl, rfl, rfl⟩
  | releases k => exact ⟨.inl hs, rfl, rfl, rfl⟩
  | readsPixels | readsSound | readsAwaiting => exact ⟨.inl hs, rfl, rfl, rfl⟩

/-! ### Timers (60_exceptions R313, R314) -/

/-- A counter fell by at most one and did not rise. -/
def FellAtMostOne (new old : Byte) : Prop := new.toNat ≤ old.toNat ∧ old.toNat ≤ new.toNat + 1

theorem FellAtMostOne.refl (c : Byte) : FellAtMostOne c c := ⟨Nat.le_refl _, Nat.le_succ _⟩

theorem FellAtMostOne.gated (fires : Bool) (c : Byte) : FellAtMostOne (if fires then decTimer c else c) c := by
  cases fires with
  | false => exact .refl c
  | true =>
    have h := decTimer_toNat c
    exact ⟨by simp [h], by simp [h]; omega⟩

theorem Performs.timers_of_step {s t : State} {now : Rat} {r : Byte} (h : Performs s (.step now r) t) :
    ((∀ op x, s.mem.fetch16 s.pc.toNat = .ok op → decode op ≠ .ok (.ldDTVx x)) → FellAtMostOne t.delayTimer s.delayTimer) ∧
    ((∀ op x, s.mem.fetch16 s.pc.toNat = .ok op → decode op ≠ .ok (.ldSTVx x)) → FellAtMostOne t.soundTimer s.soundTimer) := by
  cases h with
  | stepsSuspended => exact ⟨fun _ => .refl _, fun _ => .refl _⟩
  | fetchFails => exact ⟨fun _ => .gated .., fun _ => .gated ..⟩
  | decodeFails => exact ⟨fun _ => .gated .., fun _ => .gated ..⟩
  | executes _ _ op ins t _ _ hop hi ht =>
    have heff := Effect.of_exec ht
    refine ⟨fun hdt => ?_, fun hst => ?_⟩
    · rw [heff.delayTimer (fun x e => hdt op x hop (e ▸ hi))]
      exact .gated ..
    · rw [heff.soundTimer (fun x e => hst op x hop (e ▸ hi))]
      exact .gated ..

theorem State.timerGate_of_fires {s : State} {now : Rat} (h : gateFires now s.lastTick = true) :
    s.timerGate now =
      { s with delayTimer := decTimer s.delayTimer, soundTimer := decTimer s.soundTimer, lastTick := now } := by
  simp [State.timerGate, h]

theorem State.timerGate_of_not_fires {s : State} {now : Rat} (h : gateFires now s.lastTick = false) : s.timerGate now = s := by
  simp [State.timerGate, h]

end Sys2Proof.Machine

namespace Sys2Proof.Proofs

open Machine

/-- Settles O9: one operation hands back an error and records the first one, or does neither. -/
theorem firstErrorIsSticky : Obligations.FirstErrorIsSticky := by
  intro s t h
  obtain ⟨ins, n, hp⟩ := Performs.of_transition h
  rcases hp.recorded with ⟨e, herr, hreply⟩ | ⟨herr, hreply⟩
  · refine ⟨fun e' he' => ?_, fun e' he' => ?_, fun hno => absurd hreply (hno e)⟩
    · simp only at herr
      rw [herr, he', Option.getD_some]
    · obtain rfl : e = e' := Reply.error.inj (hreply.symm.trans he')
      exact herr
  · exact ⟨fun e he => herr.trans he, fun e he => absurd he (hreply e), fun _ => herr⟩

/-- Settles O19. -/
theorem waitEndsOnlyByKeyDown : Obligations.WaitEndsOnlyByKeyDown := by
  intro s t h hs ht
  obtain ⟨ins, n, hp⟩ := Performs.of_transition h
  rcases (hp.suspended hs).1 with hwait | hkey
  · simp [ht] at hwait
  · exact hkey

/-- Settles O20: the sound level is a function of the sound timer. -/
theorem timersFrozenWhileSuspended : Obligations.TimersFrozenWhileSuspended := by
  intro s t h hs
  obtain ⟨ins, n, hp⟩ := Performs.of_transition h
  obtain ⟨-, hdelay, hsound, htick⟩ := hp.suspended hs
  exact ⟨hdelay, hsound, htick, by rw [State.beep, State.beep, hsound]⟩

/-- Settles O23. -/
theorem timersFallAtMostOnePerStep : Obligations.TimersFallAtMostOnePerStep :=
  fun _ _ _ _ h => (Performs.of_step h).timers_of_step

/-- Settles O21: the gate's two cases. -/
theorem timerGateDecrementsBoth : Obligations.TimerGateDecrementsBoth := by
  intro s now
  refine ⟨fun hopen => ?_, fun hshut => ?_⟩
  · rw [State.timerGate_of_fires ((gateFires_iff now s.lastTick).2 hopen)]
    exact ⟨decTimer_toNat _, decTimer_toNat _, rfl, rfl⟩
  · refine State.timerGate_of_not_fires (Bool.eq_false_iff.2 fun hf => ?_)
    exact absurd ((gateFires_iff now s.lastTick).1 hf) (not_le.2 hshut)

/-- Settles O22: a gate that ran at `now` leaves that as its timestamp, and one that shuts leaves it there. -/
theorem decrementsAtLeastASixtiethApart : Obligations.DecrementsAtLeastASixtiethApart := by
  intro s now later hopen hmoved
  have hlast : (s.timerGate now).lastTick = now := by
    rw [State.timerGate_of_fires ((gateFires_iff now s.lastTick).2 hopen)]
  have hfires : gateFires later now = true := by
    by_contra hshut
    rw [State.timerGate_lastTick, hlast, if_neg hshut] at hmoved
    exact hmoved rfl
  have := (gateFires_iff later now).1 hfires
  linarith

/-- Settles O6: `readied` clears the reply and runs the gate, neither of which sees pc or rnd. -/
theorem stepRunsDecodedInstruction : Obligations.StepRunsDecodedInstruction := by
  intro s s1 now r op i htake hs hk hop hi
  rw [step_eq, htake]
  exact State.perform_step_executes now r hs hk hop hi

/-- Settles O7. -/
theorem suspendedStepChangesNothing : Obligations.SuspendedStepChangesNothing :=
  fun _ now r hs hk => State.perform_step_suspended now r hs hk

/-- Settles O8: the two errors of a cycle before it executes. -/
theorem fetchAndDecodeErrors : Obligations.FetchAndDecodeErrors := by
  intro s now r hs hk
  rw [State.perform_step_running now r hs hk]
  exact ⟨fun hpc => State.cycle_of_unfetchable r hpc, fun op e hop he => State.cycle_of_decode_error r hop he⟩

end Sys2Proof.Proofs
end

section
/-! The invariants of 10_state R45 along every transition, and where a transition can be missing (60_exceptions R320). -/

namespace Sys2Proof.Machine

/-! ### Memory in canonical form (log entry 13) -/

/-- A program that fits lies below the end of memory (70_reset_and_hazards R352). -/
theorem Memory.wf_ofProgram_of_fits {bytes : List Byte} (hfit : bytes.length ≤ 3584) : (Memory.ofProgram 0x200 bytes).wf :=
  Memory.wf_ofProgram (Nat.add_le_add_left hfit 0x200)

theorem Performs.memWf {s t : State} {op : HostOp} (h : Performs s op t) (hm : s.mem.wf) : t.mem.wf := by
  cases h with
  | loads bytes _ hfit => exact Memory.wf_ofProgram_of_fits hfit
  | executes now r op ins t _ _ _ _ ht => exact (Effect.of_exec ht).memWf hm
  | loadFails | stepsSuspended | fetchFails | decodeFails | presses | completes | releases => exact hm
  | readsPixels | readsSound | readsAwaiting => exact hm

/-! ### The bound on pc (10_state R35, R37) -/

theorem toNat_zext16 (b : Byte) : (zext16 b).toNat = b.toNat := BitVec.toNat_setWidth_of_le (by decide)

theorem toNat_addrOf_add_zext16 (nnn : Addr12) (b : Byte) : (addrOf nnn + zext16 b).toNat = nnn.toNat + b.toNat := by
  have := nnn.isLt
  have := b.isLt
  rw [BitVec.toNat_add, toNat_addrOf, toNat_zext16]
  omega

theorem toNat_add_two {a : Word} (h : a.toNat ≤ 0x1000) : (a + 2).toNat = a.toNat + 2 := by
  rw [BitVec.toNat_add, show (2 : Word).toNat = 2 from rfl]
  omega

/-- The last address a word can be fetched from (20_memory R63). -/
theorem Memory.fetch16_bound {m : Memory} {a : Nat} {op : Word} (h : m.fetch16 a = .ok op) : a ≤ 0xFFE :=
  Nat.le_of_succ_le_succ (Memory.fetch16_ok.1 h).1

theorem PcTarget.bound {ins : Instr} {s : State} {p : Word} (h : PcTarget ins s p) (hlow : 2 ≤ s.pc.toNat)
    (hpc : s.pc.toNat ≤ 0x1000) (hst : ∀ j : Fin 16, j.val < s.sp.val → s.stack[j].toNat ≤ 0x1000) : p.toNat ≤ 0x10FE := by
  cases h with
  | following => omega
  | skipping => rw [toNat_add_two hpc]; omega
  | jumping nnn => have := nnn.isLt; rw [toNat_addrOf]; omega
  | jumpingPast nnn b =>
    have := nnn.isLt
    have := b.isLt
    rw [toNat_addrOf_add_zext16]
    omega
  | returning j hj => exact Nat.le_trans (hst j hj) (by decide)
  | waiting => rw [BitVec.toNat_sub_of_le (BitVec.le_def.2 (show (2 : Word).toNat ≤ _ from hlow))]; omega

/-! ### The wait for a key (10_state R45) -/

theorem Effect.ldVxK_of_awaits {ins : Instr} {s t : State} (h : Effect ins s t) (hs : s.awaitingKey = false)
    (ht : t.awaitingKey = true) : ∃ x, ins = .ldVxK x := by
  by_contra hno
  rw [h.awaitingKey fun x e => hno ⟨x, e⟩, hs] at ht
  cases ht

/-- FX0A puts pc back at the word that it was decoded from. -/
theorem State.atKeyWait_of_executes {s t : State} {now : Rat} {r : Byte} {op : Word} {x : Nibble}
    (hop : s.mem.fetch16 s.pc.toNat = .ok op) (hi : decode op = .ok (.ldVxK x))
    (ht : exec (.ldVxK x) ((s.readied now).fetched r) = .next t) : t.AtKeyWait := by
  obtain rfl := Host.Outcome.next.inj ht
  obtain ⟨-, rfl⟩ : Reads op (.ldVxK x) := reads_of_decode hi
  have hpc : ((s.readied now).fetched r).pc - 2 = s.pc := BitVec.add_sub_cancel s.pc 2
  simp only [State.AtKeyWait, hpc]
  exact ⟨(Memory.fetch16_ok.1 hop).1, _, hop, opFamily_fmtXNN .., opNN_fmtXNN ..⟩

/-! ### The host's contract (60_exceptions R320, log entry 9) -/

theorem loadsIn_cons (op : HostOp) (ops : List HostOp) : loadsIn (op :: ops) = loadsIn [op] + loadsIn ops := by
  cases op with
  | load bytes => exact Nat.add_comm (loadsIn ops) 1
  | _ => exact (Nat.zero_add _).symm

/-- Taking the next operation takes its load off the list; an operation the model supplies is none. -/
theorem State.loadsIn_takeInput (s : State) : loadsIn [s.takeInput.1] + loadsIn s.takeInput.2.inputs = loadsIn s.inputs := by
  rcases s.takeInput_cases with ⟨op, rest, hin, e⟩ | ⟨hin, e⟩ <;> rw [e, hin]
  · exact (loadsIn_cons op rest).symm
  · simp [loadsIn]

/-- Under the contract a load is the first one, and the last. -/
theorem State.HostContract.load_once {s : State} (h : s.HostContract) {bytes : List Byte} (hop : s.takeInput.1 = .load bytes) :
    s.session = .notLoaded ∧ loadsIn s.takeInput.2.inputs = 0 := by
  have hone : loadsIn [s.takeInput.1] = 1 := by rw [hop]; rfl
  have hsum := s.loadsIn_takeInput
  unfold State.HostContract at h
  split at h
  · exact ⟨‹_›, by omega⟩
  · omega

theorem State.Inv.takeInput {s : State} (h : s.Inv) : s.takeInput.2.Inv := by
  have hle : loadsIn s.takeInput.2.inputs ≤ loadsIn s.inputs := by rw [← s.loadsIn_takeInput]; exact Nat.le_add_left ..
  obtain ⟨ins, n, e⟩ := s.takeInput_frame
  rw [e] at hle ⊢
  exact { h with contract := Nat.le_trans (Nat.add_le_add_right hle _) h.contract }

/-! ### Every operation keeps the invariant -/

/-- What a load that fits leaves meets the invariant, whatever was there before. -/
theorem State.inv_of_load {s : State} {bytes : List Byte} (hfit : bytes.length ≤ 3584) (hk : s.awaitingKey = false)
    (hlast : loadsIn s.inputs = 0) :
    State.Inv { s with mem := Memory.ofProgram 0x200 bytes, pc := 0x200#16, sp := 0, session := .loaded, reply := .ok } where
  memWf := Memory.wf_ofProgram_of_fits hfit
  pcBound := (by decide : (0x200#16).toNat ≤ 0x10FE)
  stackBound _ hj := absurd hj (Nat.not_lt_zero _)
  keyWait h := by simp [hk] at h
  suspendedInSession _ := rfl
  contract := by simp [State.HostContract, hlast]

theorem State.Inv.running_of_notLoaded {s : State} (h : s.Inv) (hs : s.session = .notLoaded) : s.awaitingKey = false := by
  cases hk : s.awaitingKey with
  | false => rfl
  | true => rw [h.suspendedInSession hk] at hs; cases hs

theorem State.Inv.executes {s t : State} {now : Rat} {r : Byte} {op : Word} {ins : Instr} (h : s.Inv) (hs : s.session = .loaded)
    (hk : s.awaitingKey = false) (hop : s.mem.fetch16 s.pc.toNat = .ok op) (hi : decode op = .ok ins)
    (ht : exec ins ((s.readied now).fetched r) = .next t) : t.Inv := by
  have heff := Effect.of_exec ht
  have hpc_le : s.pc.toNat ≤ 0xFFE := Memory.fetch16_bound hop
  have hpc : ((s.readied now).fetched r).pc.toNat = s.pc.toNat + 2 := toNat_add_two (a := s.pc) (by omega)
  exact {
    memWf := heff.memWf h.memWf
    pcBound := heff.pc.bound (by omega) (by omega) h.stackBound
    stackBound := fun j hj => by
      rcases heff.returnAddress j hj with e | ⟨hold, e⟩ <;> rw [e]
      · omega
      · exact h.stackBound j hold
    keyWait := fun hwait => by
      obtain ⟨x, rfl⟩ := heff.ldVxK_of_awaits hk hwait
      exact State.atKeyWait_of_executes hop hi ht
    suspendedInSession := fun _ => heff.session.trans hs
    contract := by
      unfold State.HostContract
      rw [heff.inputs, heff.session]
      exact h.contract }

theorem Performs.keepsInv {s t : State} {op : HostOp} (h : Performs s op t) (hinv : s.Inv)
    (hlast : ∀ bytes, op = .load bytes → loadsIn s.inputs = 0) : t.Inv := by
  cases h with
  | loads bytes hs hfit => exact State.inv_of_load hfit (hinv.running_of_notLoaded hs) (hlast bytes rfl)
  | loadFails bytes hs =>
    have hk := hinv.running_of_notLoaded hs
    exact { hinv with
      keyWait := fun hwait => absurd (hk.symm.trans hwait) Bool.false_ne_true
      suspendedInSession := fun hwait => absurd (hk.symm.trans hwait) Bool.false_ne_true
      contract := by simp [State.HostContract, hlast bytes rfl] }
  | decodeFails now r op hs hk hop =>
    have hpc_le : s.pc.toNat ≤ 0xFFE := Memory.fetch16_bound hop
    have hpc : (s.pc + 2).toNat = s.pc.toNat + 2 := toNat_add_two (by omega)
    exact { hinv with
      pcBound := show (s.pc + 2).toNat ≤ 0x10FE by omega
      keyWait := fun hwait => absurd (hk.symm.trans hwait) Bool.false_ne_true }
  | executes now r op ins t hs hk hop hi ht => exact hinv.executes hs hk hop hi ht
  | completes k op hk hop =>
    have hpc_le : s.pc.toNat ≤ 0xFFE := Memory.fetch16_bound hop
    have hpc : (s.pc + 2).toNat = s.pc.toNat + 2 := toNat_add_two (by omega)
    exact { hinv with
      pcBound := show (s.pc + 2).toNat ≤ 0x10FE by omega
      keyWait := nofun
      suspendedInSession := nofun }
  | stepsSuspended | fetchFails | presses | releases => exact { hinv with }
  | readsPixels | readsSound | readsAwaiting => exact { hinv with }

/-! ### Where a transition can be missing -/

theorem State.cycle_total (r : Byte) (s : State) : ∃ t, s.cycle r = .next t := by
  rcases s.cycle_cases r with ⟨-, e⟩ | ⟨op, err, -, -, e⟩ | ⟨op, ins, -, -, e⟩
  · exact ⟨_, e⟩
  · exact ⟨_, e⟩
  · obtain ⟨t, ht, -⟩ := exec_effect ins (s.fetched r)
    exact ⟨t, e.trans ht⟩

theorem State.perform_step_total {s : State} (now : Rat) (r : Byte) (hs : s.session = .loaded) :
    ∃ t, s.perform (.step now r) = .next t := by
  cases hk : s.awaitingKey with
  | true => exact ⟨_, State.perform_step_suspended now r hs hk⟩
  | false => rw [State.perform_step_running now r hs hk]; exact State.cycle_total r _

theorem State.perform_step_notLoaded {s : State} (now : Rat) (r : Byte) (hs : s.session ≠ .loaded) :
    s.perform (.step now r) = .refused .noSession := by
  rcases s.hostStep_cases now r with ⟨-, e⟩ | ⟨hl, -⟩ | ⟨hl, -⟩
  · exact e
  · exact absurd hl hs
  · exact absurd hl hs

theorem State.perform_load_again {s : State} (bytes : List Byte) (hs : s.session ≠ .notLoaded) :
    s.perform (.load bytes) = .refused .secondLoad := by
  rcases s.hostLoad_cases bytes with ⟨hn, -⟩ | ⟨-, e⟩
  · exact absurd hn hs
  · exact e

/-- A key-down stops, if at all, with a fault. -/
theorem State.perform_keyDown_not_refused (s : State) (k : Key) (q : Refusal) : s.perform (.keyDown k) ≠ .refused q := by
  rw [State.perform_keyDown, State.keyDown]
  split
  · unfold State.keyWaitComplete
    split <;> nofun
  · nofun

/-- In a session whose key-wait can be fetched only a second load has no next state. -/
theorem State.perform_total {s : State} {op : HostOp} (hs : s.session = .loaded) (hwait : s.awaitingKey = true → s.AtKeyWait)
    (hop : ∀ bytes, op ≠ .load bytes) : ∃ t, s.perform op = .next t := by
  cases op with
  | load bytes => exact absurd rfl (hop bytes)
  | step now r => exact State.perform_step_total now r hs
  | keyDown k =>
    rw [State.perform_keyDown]
    rcases Bool.eq_false_or_eq_true s.awaitingKey with hk | hk
    · obtain ⟨-, op, hfetch, -, -⟩ := hwait hk
      exact ⟨_, State.keyDown_of_awaiting k hk hfetch⟩
    · exact ⟨_, State.keyDown_of_running k hk⟩
  | keyUp | readFramebuffer | soundLevel | isAwaitingKey => exact ⟨_, rfl⟩

end Sys2Proof.Machine

namespace Sys2Proof.Proofs

open Machine

/-- Settles O11: taking the next operation keeps the invariant, and so does performing it. -/
theorem stepKeepsInvariant : Obligations.StepKeepsInvariant := by
  intro s t hinv h
  refine (Performs.of_perform h).keepsInv hinv.takeInput fun bytes hop => ?_
  exact (hinv.contract.load_once hop).2

/-- Settles O13. -/
theorem loadedMachineMeetsInvariant : Obligations.LoadedMachineMeetsInvariant := by
  intro l bytes hfit hlast
  rcases State.load_cases bytes (State.created l) with ⟨hbig, -⟩ | ⟨-, e⟩
  · omega
  · rw [e]
    exact State.inv_of_load hfit rfl hlast

/-- Settles O12: reset is a load of no bytes. -/
theorem resetMeetsInvariant : Obligations.ResetMeetsInvariant := by
  unfold Obligations.ResetMeetsInvariant
  rw [State.reset_eq_load]
  exact loadedMachineMeetsInvariant _ [] (by decide) rfl

/-- Settles O14. -/
theorem stepKeepsMemoryCanonical : Obligations.StepKeepsMemoryCanonical := by
  intro s t hm h
  obtain ⟨ins, n, hp⟩ := Performs.of_transition h
  exact hp.memWf hm

/-- Settles O15: the contract rules the second load out, the invariant the unfetchable key-wait. -/
theorem loadedMachineNeverStops : Obligations.LoadedMachineNeverStops := by
  intro s hinv hs
  have hs' : s.takeInput.2.session = .loaded := by
    obtain ⟨ins, n, e⟩ := s.takeInput_frame
    rw [e]
    exact hs
  refine State.perform_total hs' hinv.takeInput.keyWait fun bytes hop => ?_
  rw [(hinv.contract.load_once hop).1] at hs
  cases hs

/-- Settles O60. -/
theorem contractBreachesAreRefused : Obligations.ContractBreachesAreRefused := by
  intro s op
  constructor
  · rintro ⟨q, h⟩
    cases op with
    | load bytes =>
      refine .inr ⟨fun hs => ?_, bytes, rfl⟩
      simp [State.perform_load, State.hostLoad, hs] at h
    | step now r =>
      refine .inl ⟨fun hs => ?_, now, r, rfl⟩
      obtain ⟨t, ht⟩ := State.perform_step_total now r hs
      rw [ht] at h
      cases h
    | keyDown k => exact absurd h (s.perform_keyDown_not_refused k q)
    | keyUp | readFramebuffer | soundLevel | isAwaitingKey => cases h
  · rintro (⟨hs, now, r, rfl⟩ | ⟨hs, bytes, rfl⟩)
    · exact ⟨_, State.perform_step_notLoaded now r hs⟩
    · exact ⟨_, State.perform_load_again bytes hs⟩

end Sys2Proof.Proofs
end

section
/-! Control flow (40_flow): CALL and RET, the register skips, JP V0 and SYS. -/

namespace Sys2Proof

/-- A low nibble other than 0 makes 5XYn and 9XYn unsupported (30_encoding R98, decision D4). -/
theorem decode_fmtXYN_skip_unsupported {f n : Nibble} (hf : f = 0x5#4 ∨ f = 0x9#4) (hn : n ≠ 0x0#4) (x y : Nibble) :
    decode (fmtXYN f x y n) = .error (.unsupportedOpcode (fmtXYN f x y n)) := by
  rcases hf with rfl | rfl <;> simp [decode, hn]

end Sys2Proof

namespace Sys2Proof.Machine

theorem exec_seReg (x y : Nibble) (s : State) : exec (.seReg x y) s = .next (s.skipIf (s.getV x == s.getV y)) := rfl

theorem exec_sneReg (x y : Nibble) (s : State) : exec (.sneReg x y) s = .next (s.skipIf (s.getV x != s.getV y)) := rfl

theorem exec_jpV0 (nnn : Addr12) (s : State) :
    exec (.jpV0 nnn) s = .next (s.setPc (addrOf nnn + zext16 (s.getV 0x0#4))) := rfl

theorem exec_sys (nnn : Addr12) (s : State) :
    exec (.sys nnn) s = .next (s.raise (.unsupportedOpcode (encode (.sys nnn)) s.pcF)) := rfl

theorem exec_call_of_free (nnn : Addr12) {s : State} (hs : s.sp.val < 16) :
    exec (.call nnn) s =
      .next { s with stack := s.stack.set s.sp.val s.pc hs, sp := ⟨s.sp.val + 1, Nat.succ_lt_succ hs⟩, pc := addrOf nnn } := by
  rcases execCall_cases nnn s with ⟨hfull, -⟩ | ⟨_, e⟩
  · omega
  · exact e

theorem exec_call_of_full (nnn : Addr12) {s : State} (hs : s.sp.val = 16) :
    exec (.call nnn) s = .next (s.raise (.stackOverflow (encode (.call nnn)) s.pcF)) := by
  rcases execCall_cases nnn s with ⟨-, e⟩ | ⟨hfree, -⟩
  · exact e
  · omega

theorem exec_ret_of_empty {s : State} (hs : s.sp.val = 0) :
    exec .ret s = .next (s.raise (.stackUnderflow (encode .ret) s.pcF)) := by
  rcases execRet_cases s with ⟨-, e⟩ | ⟨hused, -⟩
  · exact e
  · omega

/-- The slot RET pops, by its number. -/
theorem exec_ret_of_used {s : State} {j : Fin 16} (hj : s.sp.val = j.val + 1) :
    exec .ret s = .next { s with sp := j.castSucc, pc := s.stack[j] } := by
  rcases execRet_cases s with ⟨hempty, -⟩ | ⟨_, _, _, e⟩
  · omega
  · have hslot : s.sp.val - 1 = j.val := by omega
    refine e.trans ?_
    simp only [hslot]
    rfl

end Sys2Proof.Machine

namespace Sys2Proof.Proofs

open Machine

/-- Settles O26: one conditional skip each, as on an immediate. -/
theorem skipsOnRegister : Obligations.SkipsOnRegister := by
  intro x y s
  refine ⟨decode_fmtXYN_seReg x y, decode_fmtXYN_sneReg x y, fun n hn => ⟨?_, ?_⟩, ?_, ?_⟩
  · exact decode_fmtXYN_skip_unsupported (.inl rfl) hn x y
  · exact decode_fmtXYN_skip_unsupported (.inr rfl) hn x y
  · rw [exec_seReg, State.skipIf_of_iff s beq_iff_eq]
  · rw [exec_sneReg, State.skipIf_of_iff s bne_iff_ne]

/-- Settles O27. -/
theorem callPushesReturnAddress : Obligations.CallPushesReturnAddress := by
  intro nnn s hs
  refine ⟨_, exec_call_of_free nnn hs, toNat_addrOf nnn, rfl, fun j => ?_, rfl⟩
  simp only [Fin.getElem_fin, Vector.getElem_set, eq_comm]

/-- Settles O28. -/
theorem retPopsReturnAddress : Obligations.RetPopsReturnAddress :=
  fun _ _ hj => ⟨_, exec_ret_of_used hj, rfl, rfl, rfl⟩

/-- Settles O29. -/
theorem stackBoundsRaise : Obligations.StackBoundsRaise :=
  fun nnn _ => ⟨fun hs => exec_call_of_full nnn hs, fun hs => exec_ret_of_empty hs⟩

/-- Settles O30: RET pops the very slot that CALL pushed. -/
theorem callThenReturnRestores : Obligations.CallThenReturnRestores := by
  intro nnn s t u hs ht hstack hsp
  obtain rfl := Host.Outcome.next.inj ((exec_call_of_free nnn hs).symm.trans ht)
  have hj : u.sp.val = s.sp.val + 1 := by rw [hsp]
  refine ⟨_, exec_ret_of_used (j := ⟨s.sp.val, hs⟩) hj, ?_, rfl, rfl⟩
  simp [hstack]

/-- Settles O31. -/
theorem jumpAddsOffset : Obligations.JumpAddsOffset :=
  fun nnn s => ⟨_, exec_jpV0 nnn s, toNat_addrOf_add_zext16 nnn _, rfl⟩

/-- Settles O32. -/
theorem sysRaisesUnsupported : Obligations.SysRaisesUnsupported :=
  fun nnn s => ⟨exec_sys nnn s, s.sysCall_nop nnn⟩

end Sys2Proof.Proofs
end

section
/-! Registers and arithmetic (41_alu R162 to R172). -/

namespace Sys2Proof

@[simp] theorem decode_fmtXYN_addReg (x y : Nibble) : decode (fmtXYN 0x8#4 x y 0x4#4) = .ok (.addReg x y) := by simp [decode, decode8]
@[simp] theorem decode_fmtXYN_sub (x y : Nibble) : decode (fmtXYN 0x8#4 x y 0x5#4) = .ok (.sub x y) := by simp [decode, decode8]
@[simp] theorem decode_fmtXYN_subn (x y : Nibble) : decode (fmtXYN 0x8#4 x y 0x7#4) = .ok (.subn x y) := by simp [decode, decode8]

theorem b2n_decide (p : Prop) [Decidable p] : b2n (decide p) = if p then 1#8 else 0#8 := by simp [b2n]

theorem toNat_b2n (b : Bool) : (b2n b).toNat = b.toNat := by cases b <;> rfl

theorem toNat_b2n_getLsbD (a : Byte) (j : Nat) : (b2n (a.getLsbD j)).toNat = a.toNat / 2 ^ j % 2 := by
  rw [toNat_b2n, BitVec.getLsbD, Nat.toNat_testBit]

/-- The difference of two bytes, without truncation (41_alu R168). -/
theorem toNat_byte_sub (a b : Byte) : (a - b).toNat = (a.toNat + 256 - b.toNat) % 256 := by
  have := b.isLt
  rw [BitVec.toNat_sub]
  omega

end Sys2Proof

namespace Sys2Proof.Machine

theorem exec_addImm (x : Nibble) (nn : Byte) (s : State) : exec (.addImm x nn) s = .next (s.setV x (s.getV x + nn)) := rfl

/-- The logic operations at the default of `LOGIC_CLEARS_VF` are one register write (decision D7). -/
theorem exec_orReg (x y : Nibble) (s : State) : exec (.orReg x y) s = .next (s.setV x (s.getV x ||| s.getV y)) := rfl
theorem exec_andReg (x y : Nibble) (s : State) : exec (.andReg x y) s = .next (s.setV x (s.getV x &&& s.getV y)) := rfl
theorem exec_xorReg (x y : Nibble) (s : State) : exec (.xorReg x y) s = .next (s.setV x (s.getV x ^^^ s.getV y)) := rfl

theorem exec_addReg (x y : Nibble) (s : State) :
    exec (.addReg x y) s = .next (s.setResult x (s.getV x + s.getV y) (addFlag (s.getV x) (s.getV y))) := rfl
theorem exec_sub (x y : Nibble) (s : State) :
    exec (.sub x y) s = .next (s.setResult x (s.getV x - s.getV y) (subFlag (s.getV x) (s.getV y))) := rfl
theorem exec_subn (x y : Nibble) (s : State) :
    exec (.subn x y) s = .next (s.setResult x (s.getV y - s.getV x) (subFlag (s.getV y) (s.getV x))) := rfl

/-- The shifts at the default of `SHIFT_SOURCE` shift Vx (decision D5). -/
theorem exec_shr (x y : Nibble) (s : State) :
    exec (.shr x y) s = .next (s.setResult x (s.getV x >>> 1) (shrFlag (s.getV x))) := rfl
theorem exec_shl (x y : Nibble) (s : State) :
    exec (.shl x y) s = .next (s.setResult x (s.getV x <<< 1) (shlFlag (s.getV x))) := rfl

theorem exec_rnd (x : Nibble) (nn : Byte) (s : State) : exec (.rnd x nn) s = .next (s.setV x (s.rnd &&& nn)) := rfl

/-- The frame of a result with its flag: VF holds the flag, whatever the destination (00_scope R13, decision D6). -/
theorem State.setResult_writes_only (s : State) (x : Nibble) (r : Byte) (flag : Bool) :
    (s.setResult x r flag).getV 0xF#4 = b2n flag ∧
    (x ≠ 0xF#4 → (s.setResult x r flag).getV x = r) ∧
    (∀ z, z ≠ x → z ≠ 0xF#4 → (s.setResult x r flag).getV z = s.getV z) ∧
    s.setResult x r flag = { s with v := (s.setResult x r flag).v } :=
  ⟨s.setResult_flag x r flag, fun hx => by rw [State.getV_setResult, if_neg hx, if_pos rfl],
    fun z hzx hzf => by rw [State.getV_setResult, if_neg hzf, if_neg hzx], rfl⟩

end Sys2Proof.Machine

namespace Sys2Proof.Proofs

open Machine

/-- Settles O34. -/
theorem addImmediateSetsNoFlag : Obligations.AddImmediateSetsNoFlag := by
  intro x nn s
  obtain ⟨hx, hne, hframe⟩ := s.setV_writes_only x (s.getV x + nn)
  exact ⟨_, exec_addImm x nn s, by rw [hx, BitVec.toNat_add], hne, hframe⟩

/-- Settles O35. -/
theorem logicIsBitwise : Obligations.LogicIsBitwise := by
  intro x y s
  refine ⟨⟨_, exec_orReg x y s, fun j => ?_, (s.setV_writes_only x _).2⟩,
    ⟨_, exec_andReg x y s, fun j => ?_, (s.setV_writes_only x _).2⟩,
    ⟨_, exec_xorReg x y s, fun j => ?_, (s.setV_writes_only x _).2⟩⟩
  · rw [State.getV_setV_same, BitVec.getLsbD_or]
  · rw [State.getV_setV_same, BitVec.getLsbD_and]
  · rw [State.getV_setV_same, BitVec.getLsbD_xor]

/-- Settles O36. -/
theorem addSetsCarry : Obligations.AddSetsCarry := by
  intro x y s
  obtain ⟨hvf, hx, hframe⟩ := s.setResult_writes_only x (s.getV x + s.getV y) (addFlag (s.getV x) (s.getV y))
  refine ⟨decode_fmtXYN_addReg x y, _, exec_addReg x y s, hvf.trans (b2n_decide _), fun hne => ?_, hframe⟩
  rw [hx hne, BitVec.toNat_add]

/-- Settles O37. -/
theorem subtractsSetStrictFlag : Obligations.SubtractsSetStrictFlag := by
  intro x y s
  refine ⟨decode_fmtXYN_sub x y, decode_fmtXYN_subn x y, ?_, ?_⟩
  · obtain ⟨hvf, hx, hframe⟩ := s.setResult_writes_only x (s.getV x - s.getV y) (subFlag (s.getV x) (s.getV y))
    exact ⟨_, exec_sub x y s, hvf.trans (b2n_decide _), fun hne => by rw [hx hne, toNat_byte_sub], hframe⟩
  · obtain ⟨hvf, hx, hframe⟩ := s.setResult_writes_only x (s.getV y - s.getV x) (subFlag (s.getV y) (s.getV x))
    exact ⟨_, exec_subn x y s, hvf.trans (b2n_decide _), fun hne => by rw [hx hne, toNat_byte_sub], hframe⟩

/-- Settles O38: the bit lost is bit 0 of Vx to the right and bit 7 to the left. -/
theorem shiftsKeepTheLostBit : Obligations.ShiftsKeepTheLostBit := by
  intro x y s
  constructor
  · obtain ⟨hvf, hx, hframe⟩ := s.setResult_writes_only x (s.getV x >>> 1) (shrFlag (s.getV x))
    refine ⟨_, exec_shr x y s, ?_, fun hne => ?_, hframe⟩
    · rw [hvf, shrFlag, toNat_b2n_getLsbD, pow_zero, Nat.div_one]
    · rw [hx hne, BitVec.toNat_ushiftRight, Nat.shiftRight_eq_div_pow, pow_one]
  · obtain ⟨hvf, hx, hframe⟩ := s.setResult_writes_only x (s.getV x <<< 1) (shlFlag (s.getV x))
    refine ⟨_, exec_shl x y s, ?_, fun hne => ?_, hframe⟩
    · have := (s.getV x).isLt
      rw [hvf, shlFlag, toNat_b2n_getLsbD]
      omega
    · rw [hx hne, BitVec.toNat_shiftLeft, Nat.shiftLeft_eq, pow_one]

/-- Settles O39: RND reads the byte that the fetch of this step put at hand. -/
theorem randomByteIsMasked : Obligations.RandomByteIsMasked := by
  intro x nn r s
  constructor
  · obtain ⟨hx, hne, hframe⟩ := ({ s with rnd := r } : State).setV_writes_only x (r &&& nn)
    exact ⟨_, exec_rnd x nn _, fun j => by rw [hx, BitVec.getLsbD_and], hne, hframe⟩
  · intro now op hs hk hop hi
    obtain ⟨-, hne, hframe⟩ := ((s.readied now).fetched r).setV_writes_only x (r &&& nn)
    exact ⟨_, (State.perform_step_executes now r hs hk hop hi).trans (exec_rnd x nn _),
      fun j => by rw [State.getV_setV_same, State.fetched_rnd, BitVec.getLsbD_and], hne, hframe⟩

end Sys2Proof.Proofs
end

section
/-! Index register and memory (20_memory, 42_index_memory R200 to R206): fetch, BCD, and blocks of registers. -/

namespace Sys2Proof

/-- Big-endian (20_memory R64). -/
theorem toNat_wordOfBytes (hi lo : Byte) : (wordOfBytes hi lo).toNat = hi.toNat * 256 + lo.toNat := by
  calc (wordOfBytes hi lo).toNat = hi.toNat <<< 8 ||| lo.toNat := BitVec.toNat_append hi lo
    _ = hi.toNat <<< 8 + lo.toNat := (Nat.shiftLeft_add_eq_or_of_lt lo.isLt hi.toNat).symm
    _ = hi.toNat * 256 + lo.toNat := by rw [Nat.shiftLeft_eq]

end Sys2Proof

namespace Sys2Proof.Machine

theorem Memory.fetch16_in_range (m : Memory) {a : Nat} (h : a + 1 ≤ 0xFFF) :
    ∃ op, m.fetch16 a = .ok op ∧ op.toNat = (m.read a).toNat * 256 + (m.read (a + 1)).toNat :=
  ⟨_, Memory.fetch16_ok.2 ⟨h, rfl⟩, toNat_wordOfBytes ..⟩

/-! ### Blocks of bytes, read back address by address -/

/-- A block at `a` over the byte `d`, read inside the block. -/
theorem blockByte_inside (a : Nat) (d : Byte) {bs : List Byte} {k : Nat} (h : k < bs.length) :
    (if a ≤ a + k then (bs[a + k - a]?).getD d else d) = bs[k] := by
  rw [if_pos (Nat.le_add_right a k), Nat.add_sub_cancel_left, List.getElem?_eq_getElem h, Option.getD_some]

/-- A block at `a` over the byte `d`, read outside the block. -/
theorem blockByte_outside (d : Byte) {a b : Nat} {bs : List Byte} (h : b < a ∨ a + bs.length ≤ b) :
    (if a ≤ b then (bs[b - a]?).getD d else d) = d := by
  split
  · rw [List.getElem?_eq_none (by omega), Option.getD_none]
  · rfl

theorem Memory.read_writeBytes_inside (m : Memory) (a : Nat) {bs : List Byte} {k : Nat} (h : k < bs.length) :
    Memory.read (m.writeBytes a bs) (a + k) = bs[k] :=
  (Memory.read_writeBytes ..).trans (blockByte_inside a _ h)

theorem Memory.read_writeBytes_outside (m : Memory) {a b : Nat} {bs : List Byte} (h : b < a ∨ a + bs.length ≤ b) :
    Memory.read (m.writeBytes a bs) b = Memory.read m b :=
  (Memory.read_writeBytes ..).trans (blockByte_outside _ h)

theorem Memory.getElem?_bytes (m : Memory) (a : Nat) {n k : Nat} (h : k < n) :
    (m.bytes a n)[k]? = some (m.read (a + k)) := by
  have hk : k < (m.bytes a n).length := by rwa [Memory.bytes_length]
  rw [List.getElem?_eq_getElem hk, Memory.getElem_bytes]

theorem State.getElem_firstV_nibble (s : State) (x k : Nibble) (h : k.toNat < (s.firstV (x.toNat + 1)).length) :
    (s.firstV (x.toNat + 1))[k.toNat] = s.getV k := s.getElem_firstV _ _ h

/-- What FX65 leaves in each register: the byte of its address up to x, the old value above (42_index_memory R206). -/
theorem State.getV_setVFrom (s : State) (n : Nat) (a : Nat) (k : Nibble) :
    ({ s with v := setVFrom s.v 0 (s.mem.bytes a n) } : State).getV k =
      if k.toNat < n then s.mem.read (a + k.toNat) else s.getV k := by
  have hreg : ({ s with v := setVFrom s.v 0 (s.mem.bytes a n) } : State).getV k = ((s.mem.bytes a n)[k.toNat]?).getD (s.getV k) := by
    exact (getElem_setVFrom s.v 0 (s.mem.bytes a n) k.toNat k.isLt).trans (if_pos (Nat.zero_le _))
  by_cases hk : k.toNat < n
  · rw [hreg, if_pos hk, Memory.getElem?_bytes _ _ hk, Option.getD_some]
  · rw [hreg, if_neg hk, List.getElem?_eq_none (by rw [Memory.bytes_length]; omega), Option.getD_none]

/-! ### The three block instructions, in range and past the end (R200) -/

theorem exec_ldBVx_of_fits (x : Nibble) {s : State} (h : s.i.toNat + 2 ≤ 0xFFF) :
    exec (.ldBVx x) s = .next { s with mem := s.mem.writeBytes s.i.toNat (bcdDigits (s.getV x)) } := by
  rcases execLdBVx_cases x s with ⟨hout, -⟩ | ⟨-, e⟩
  · omega
  · exact e

theorem exec_ldBVx_past_end (x : Nibble) {s : State} (h : 0xFFF < s.i.toNat + 2) :
    exec (.ldBVx x) s = .next (s.raiseRange (s.i.toNat + 2) (.ldBVx x)) := by
  rcases execLdBVx_cases x s with ⟨-, e⟩ | ⟨hin, -⟩
  · exact e
  · omega

/-- I is kept, by the default of `LOADSTORE_ADVANCES_I` (decision D9). -/
theorem exec_stRegs_of_fits {x : Nibble} {s : State} (h : s.i.toNat + x.toNat ≤ 0xFFF) :
    exec (.stRegs x) s = .next { s with mem := s.mem.writeBytes s.i.toNat (s.firstV (x.toNat + 1)) } := by
  rcases execStRegs_cases x s with ⟨hout, -⟩ | ⟨-, e⟩
  · omega
  · exact e

theorem exec_stRegs_past_end {x : Nibble} {s : State} (h : 0xFFF < s.i.toNat + x.toNat) :
    exec (.stRegs x) s = .next (s.raiseRange (s.i.toNat + x.toNat) (.stRegs x)) := by
  rcases execStRegs_cases x s with ⟨-, e⟩ | ⟨hin, -⟩
  · exact e
  · omega

theorem exec_ldRegs_of_fits {x : Nibble} {s : State} (h : s.i.toNat + x.toNat ≤ 0xFFF) :
    exec (.ldRegs x) s = .next { s with v := setVFrom s.v 0 (s.mem.bytes s.i.toNat (x.toNat + 1)) } := by
  rcases execLdRegs_cases x s with ⟨hout, -⟩ | ⟨-, e⟩
  · omega
  · exact e

theorem exec_ldRegs_past_end {x : Nibble} {s : State} (h : 0xFFF < s.i.toNat + x.toNat) :
    exec (.ldRegs x) s = .next (s.raiseRange (s.i.toNat + x.toNat) (.ldRegs x)) := by
  rcases execLdRegs_cases x s with ⟨-, e⟩ | ⟨hin, -⟩
  · exact e
  · omega

theorem exec_drw_past_end (x y : Nibble) {n : Nibble} {s : State} (hn : 1 ≤ n.toNat) (h : 0xFFF < s.i.toNat + n.toNat - 1) :
    exec (.drw x y n) s = .next (s.raiseRange (s.i.toNat + n.toNat - 1) (.drw x y n)) := by
  rcases execDrw_cases x y n s with ⟨-, -, e⟩ | ⟨hin, -⟩
  · exact e
  · omega

/-! ### Index arithmetic (R202, R203) -/

theorem exec_addIVx (x : Nibble) (s : State) : exec (.addIVx x) s = .next (s.setI (addIndex Params.iWidth s.i (s.getV x))) := rfl

theorem exec_ldFVx (x : Nibble) (s : State) :
    exec (.ldFVx x) s = .next (s.setI (glyphAddr Params.fontIndexMask (s.getV x))) := rfl

theorem toNat_addIndex_16 (i : Word) (b : Byte) : (addIndex 16 i b).toNat = (i.toNat + b.toNat) % 65536 := by
  rw [addIndex, BitVec.toNat_ofNat]
  exact Nat.mod_mod _ (2 ^ 16)

theorem toNat_glyphAddr_low_nibble (b : Byte) : (glyphAddr 0x0F#8 b).toNat = 5 * (b.toNat % 16) := by
  have hmask : (b &&& 0x0F#8).toNat = b.toNat % 16 := by
    rw [BitVec.toNat_and]
    exact Nat.and_two_pow_sub_one_eq_mod b.toNat 4
  rw [glyphAddr, hmask, BitVec.toNat_ofNat, show Config.fontBase = 0 from rfl]
  omega

end Sys2Proof.Machine

namespace Sys2Proof.Proofs

open Machine

/-- Settles O5. -/
theorem fetchIsBigEndianAndBounded : Obligations.FetchIsBigEndianAndBounded :=
  fun m _ => ⟨m.fetch16_in_range, fun h => Memory.fetch16_error.2 ⟨h, rfl⟩⟩

/-- Settles O41. -/
theorem indexAddsAndFindsGlyphs : Obligations.IndexAddsAndFindsGlyphs :=
  fun x s => ⟨⟨_, exec_addIVx x s, toNat_addIndex_16 s.i (s.getV x), rfl⟩,
    ⟨_, exec_ldFVx x s, toNat_glyphAddr_low_nibble (s.getV x), rfl⟩⟩

/-- Settles O42: the digits are the three bytes of one block write. -/
theorem bcdStoresThreeDigits : Obligations.BcdStoresThreeDigits := by
  intro x s h
  have hv := (s.getV x).isLt
  have digit : ∀ k (hk : k < 3), Memory.read (s.mem.writeBytes s.i.toNat (bcdDigits (s.getV x))) (s.i.toNat + k) =
      (bcdDigits (s.getV x))[k]'hk := fun k hk => Memory.read_writeBytes_inside _ _ hk
  refine ⟨_, exec_ldBVx_of_fits x h, ?_, fun a ha => ?_, rfl⟩
  · refine ⟨(s.getV x).toNat / 100, (s.getV x).toNat / 10 % 10, (s.getV x).toNat % 10, by omega, by omega, by omega, by omega,
      ?_, ?_, ?_⟩
    · exact (congrArg BitVec.toNat (digit 0 (by decide))).trans (Nat.mod_eq_of_lt (by omega))
    · exact (congrArg BitVec.toNat (digit 1 (by decide))).trans (Nat.mod_eq_of_lt (by omega))
    · exact (congrArg BitVec.toNat (digit 2 (by decide))).trans (Nat.mod_eq_of_lt (by omega))
  · exact Memory.read_writeBytes_outside _ (by rw [bcdDigits_length]; omega)

/-- Settles O43: one block write of the registers from V0 on. -/
theorem blockStoreWritesRegisters : Obligations.BlockStoreWritesRegisters := by
  intro x s h
  have hlen : (s.firstV (x.toNat + 1)).length = x.toNat + 1 := State.firstV_length s _ x.isLt
  refine ⟨_, exec_stRegs_of_fits h, fun k hk => ?_, fun a ha => ?_, rfl⟩
  · have hk' : k.toNat < (s.firstV (x.toNat + 1)).length := by omega
    exact (Memory.read_writeBytes_inside _ _ hk').trans (s.getElem_firstV_nibble x k hk')
  · exact Memory.read_writeBytes_outside _ (by omega)

/-- Settles O44. -/
theorem blockLoadReadsRegisters : Obligations.BlockLoadReadsRegisters := by
  intro x s h
  refine ⟨_, exec_ldRegs_of_fits h, fun k hk => ?_, fun k hk => ?_, rfl⟩
  · rw [State.getV_setVFrom, if_pos (Nat.lt_succ_of_le hk)]
  · rw [State.getV_setVFrom, if_neg (Nat.not_lt.2 hk)]

/-- Settles O45. -/
theorem blocksPastTheEndRaise : Obligations.BlocksPastTheEndRaise := by
  intro x y n s raised
  exact ⟨fun h => exec_ldBVx_past_end x h, fun h => ⟨exec_stRegs_past_end h, exec_ldRegs_past_end h⟩,
    fun hn h => exec_drw_past_end x y hn h⟩

/-- Settles O46: FX65 reads the addresses that FX55 wrote, since FX55 keeps I. -/
theorem storedBlockLoadsBack : Obligations.StoredBlockLoadsBack := by
  intro x s t u h ht hmem hi
  obtain ⟨t', ht', hstored, -, hframe⟩ := blockStoreWritesRegisters x s h
  obtain rfl : t' = t := Host.Outcome.next.inj (ht'.symm.trans ht)
  have hi' : u.i = s.i := by rw [hi, hframe]
  obtain ⟨w, hw, hloaded, hkept, -⟩ := blockLoadReadsRegisters x u (by rwa [hi'])
  exact ⟨w, hw, fun k hk => by rw [hloaded k hk, hmem, hi', hstored k hk], hkept⟩

/-- Settles O47: the two bytes fetched are two of the bytes stored. -/
theorem storedWordIsFetched : Obligations.StoredWordIsFetched := by
  intro x k l s t h ht hkl hlx
  obtain ⟨t', ht', hstored, -, -⟩ := blockStoreWritesRegisters x s h
  obtain rfl : t' = t := Host.Outcome.next.inj (ht'.symm.trans ht)
  obtain ⟨op, hop, hval⟩ := t'.mem.fetch16_in_range (a := s.i.toNat + k.toNat) (by omega)
  rw [hstored k (by omega), Nat.add_assoc, ← hkl, hstored l hlx] at hval
  exact ⟨op, hop, hval⟩

end Sys2Proof.Proofs
end

section
/-! Keyboard and timer instructions (43_timers_keys R230 to R233). -/

namespace Sys2Proof.Machine

theorem exec_skp (x : Nibble) (s : State) : exec (.skp x) s = .next (s.skipIf (s.keyHeld x)) := rfl

theorem exec_sknp (x : Nibble) (s : State) : exec (.sknp x) s = .next (s.skipIf (!s.keyHeld x)) := rfl

theorem exec_ldVxDT (x : Nibble) (s : State) : exec (.ldVxDT x) s = .next (s.setV x s.delayTimer) := rfl

theorem exec_ldVxK (x : Nibble) (s : State) : exec (.ldVxK x) s = .next { s with awaitingKey := true, pc := s.pc - 2 } := rfl

theorem State.keyHeld_of_key {s : State} {x : Nibble} {k : Key} (h : (s.getV x).toNat = k.val) :
    s.keyHeld x = s.keyboard.getLsbD k.val := by
  have hk : k.val ≤ 0xF := Nat.le_of_lt_succ k.isLt
  rw [State.keyHeld, h, decide_eq_true hk, Bool.true_and]

/-- A value above 0xF names no key (decision D14). -/
theorem State.keyHeld_of_no_key {s : State} {x : Nibble} (h : 0xF < (s.getV x).toNat) : s.keyHeld x = false := by
  rw [State.keyHeld, decide_eq_false (Nat.not_le.2 h), Bool.false_and]

end Sys2Proof.Machine

namespace Sys2Proof.Proofs

open Machine

/-- Settles O48. -/
theorem keySkipsTestTheMask : Obligations.KeySkipsTestTheMask := by
  intro x s
  refine ⟨fun k hk => ?key, fun hbig => ?noKey⟩
  case key =>
    rw [exec_skp, exec_sknp, State.keyHeld_of_key hk]
    refine ⟨rfl, ?_⟩
    cases s.keyboard.getLsbD k.val <;> rfl
  case noKey =>
    rw [exec_skp, exec_sknp, State.keyHeld_of_no_key hbig]
    exact ⟨rfl, rfl⟩

/-- Settles O49: the state it executes in is the one after the gate. -/
theorem timerReadFollowsTheGate : Obligations.TimerReadFollowsTheGate := by
  intro x s
  refine ⟨⟨_, exec_ldVxDT x s, s.setV_writes_only x s.delayTimer⟩, fun now r op hs hk hop hi => ?_⟩
  exact ⟨_, (State.perform_step_executes now r hs hk hop hi).trans (exec_ldVxDT x _), State.getV_setV_same .., rfl⟩

/-- Settles O51: the fetch moved pc by the two bytes that FX0A takes back. -/
theorem keyWaitSuspendsInPlace : Obligations.KeyWaitSuspendsInPlace := by
  intro x s
  refine ⟨exec_ldVxK x s, fun now r op hs hk hop hi => ?_⟩
  exact ⟨_, (State.perform_step_executes now r hs hk hop hi).trans (exec_ldVxK x _), rfl, BitVec.add_sub_cancel s.pc 2, rfl⟩

end Sys2Proof.Proofs
end

section
/-! The sprite blit as a whole (44_display R261 to R267): the pixels it flips, and when it reports a collision. -/

namespace Sys2Proof.Machine

/-- Column `q` of a sprite row whose left edge stands at `ox`: a 1 bit, on the screen (44_display R264). -/
def rowPixel (ox : Nat) (row : Byte) (q : Nat) : Bool :=
  decide (ox ≤ q ∧ q < ox + 8 ∧ q < 64) && row.getLsbD (7 - (q - ox))

/-- The pixel at row `p`, column `q` of a sprite drawn from row `oy` and column `ox` on (44_display R262 to R264). -/
def spritePixel (ox : Nat) (rows : List Byte) (oy p q : Nat) : Bool :=
  decide (oy ≤ p ∧ p < 32) && rowPixel ox ((rows[p - oy]?).getD 0#8) q

@[simp] theorem rowPixel_zero (ox q : Nat) : rowPixel ox 0#8 q = false := by simp [rowPixel]

theorem rowPixel_eq (ox : Nat) (row : Byte) (q : Nat) :
    rowPixel ox row q = (decide (ox ≤ q ∧ q < 64) && ((rowBits row)[q - ox]?).getD false) := by
  rw [getD_rowBits, rowPixel, ← Bool.and_assoc, ← Bool.decide_and]
  congr 1
  exact decide_eq_decide.2 (by omega)

@[simp] theorem spritePixel_nil (ox oy p q : Nat) : spritePixel ox [] oy p q = false := by simp [spritePixel]

theorem spritePixel_above {ox : Nat} {rows : List Byte} {oy p : Nat} (q : Nat) (h : p < oy) :
    spritePixel ox rows oy p q = false := by
  simp [spritePixel, show ¬ oy ≤ p by omega]

/-- Nothing of a sprite that starts below the screen is on it. -/
theorem spritePixel_off_screen (ox : Nat) (rows : List Byte) {oy : Nat} (p q : Nat) (h : 32 ≤ oy) :
    spritePixel ox rows oy p q = false := by
  have hoff : ¬ (oy ≤ p ∧ p < 32) := by omega
  rw [spritePixel, decide_eq_false hoff, Bool.false_and]

theorem spritePixel_cons_first (ox : Nat) (row : Byte) (rows : List Byte) {oy : Nat} (q : Nat) (h : oy < 32) :
    spritePixel ox (row :: rows) oy oy q = rowPixel ox row q := by
  simp [spritePixel, h]

theorem spritePixel_cons_rest (ox : Nat) (row : Byte) (rows : List Byte) {oy p : Nat} (q : Nat) (h : p ≠ oy) :
    spritePixel ox (row :: rows) oy p q = spritePixel ox rows (oy + 1) p q := by
  by_cases hp : oy < p
  · have hidx : p - oy = (p - (oy + 1)) + 1 := by omega
    simp [spritePixel, hidx, show oy ≤ p by omega, show oy + 1 ≤ p by omega]
  · rw [spritePixel_above q (by omega), spritePixel_above q (by omega)]

/-! ### One row, then all rows -/

theorem pixel_drawRow (ox : Nat) (row : Byte) {sy : Nat} (acc : Framebuffer × Bool) (p q : Nat) (hsy : sy < 32) :
    (drawBits sy (rowBits row) ox acc).1.pixel p q = (acc.1.pixel p q ^^ (decide (p = sy) && rowPixel ox row q)) := by
  rw [pixel_drawBits sy (rowBits row) ox acc p q hsy, rowPixel_eq, Bool.decide_and, Bool.and_assoc]

theorem hit_drawRow (ox : Nat) (row : Byte) (sy : Nat) (acc : Framebuffer × Bool) :
    (drawBits sy (rowBits row) ox acc).2 = true ↔
      acc.2 = true ∨ ∃ q, rowPixel ox row q = true ∧ acc.1.pixel sy q = true := by
  simp only [hit_drawBits, rowPixel_eq, Bool.and_eq_true, decide_eq_true_eq, and_assoc]

/-- The rows flip the sprite's pixels and no other: a row never meets the pixels of another. -/
theorem pixel_drawRows (ox : Nat) (rows : List Byte) (oy : Nat) (acc : Framebuffer × Bool) (p q : Nat) :
    (drawRows ox rows oy acc).1.pixel p q = (acc.1.pixel p q ^^ spritePixel ox rows oy p q) := by
  induction rows generalizing oy acc with
  | nil => simp [drawRows]
  | cons row rows ih =>
    unfold drawRows
    split
    case isTrue hoff => rw [spritePixel_off_screen ox _ p q hoff, Bool.xor_false]
    case isFalse hon =>
      have hoy : oy < 32 := Nat.lt_of_not_le hon
      rw [ih, pixel_drawRow ox row acc p q hoy]
      by_cases hp : p = oy
      · subst hp
        rw [spritePixel_cons_first ox row rows q hoy, spritePixel_above q (Nat.lt_succ_self p)]
        simp
      · rw [spritePixel_cons_rest ox row rows q hp]
        simp [hp]

/-- A collision is a pixel of the sprite that was on before the first row was drawn: the rows above it left it alone. -/
theorem hit_drawRows (ox : Nat) (rows : List Byte) (oy : Nat) (acc : Framebuffer × Bool) :
    (drawRows ox rows oy acc).2 = true ↔
      acc.2 = true ∨ ∃ p q, spritePixel ox rows oy p q = true ∧ acc.1.pixel p q = true := by
  induction rows generalizing oy acc with
  | nil => simp [drawRows]
  | cons row rows ih =>
    unfold drawRows
    split
    case isTrue hoff =>
      refine ⟨.inl, ?_⟩
      rintro (hacc | ⟨p, q, hp, -⟩)
      · exact hacc
      · rw [spritePixel_off_screen ox _ p q hoff] at hp
        cases hp
    case isFalse hon =>
      have hoy : oy < 32 := Nat.lt_of_not_le hon
      have hbelow : ∀ p q, p ≠ oy → (drawBits oy (rowBits row) ox acc).1.pixel p q = acc.1.pixel p q := by
        intro p q hp
        simp [pixel_drawRow ox row acc p q hoy, hp]
      rw [ih, hit_drawRow, or_assoc]
      refine or_congr_right ⟨?_, ?_⟩
      · rintro (⟨q, hrow, hlit⟩ | ⟨p, q, hrest, hlit⟩)
        · exact ⟨oy, q, by rwa [spritePixel_cons_first ox row rows q hoy], hlit⟩
        · have hp : p ≠ oy := by
            rintro rfl
            simp [spritePixel_above q (Nat.lt_succ_self p)] at hrest
          exact ⟨p, q, by rwa [spritePixel_cons_rest ox row rows q hp], by rwa [hbelow p q hp] at hlit⟩
      · rintro ⟨p, q, hsprite, hlit⟩
        by_cases hp : p = oy
        · subst hp
          exact .inl ⟨q, by rwa [spritePixel_cons_first ox row rows q hoy] at hsprite, hlit⟩
        · exact .inr ⟨p, q, by rwa [spritePixel_cons_rest ox row rows q hp] at hsprite, by rwa [hbelow p q hp]⟩

/-- The sprite of the specification is the one the blit reads from memory. -/
theorem State.spriteBit_eq (s : State) (x y n : Nibble) (r c : Nat) :
    s.spriteBit x y n r c = spritePixel (s.getV x).toNat (s.mem.bytes s.i.toNat n.toNat) (s.getV y).toNat r c := by
  by_cases hy : (s.getV y).toNat ≤ r
  · by_cases hn : r - (s.getV y).toNat < n.toNat
    · have hr : r < (s.getV y).toNat + n.toNat := by omega
      simp [State.spriteBit, spritePixel, rowPixel, Memory.getElem?_bytes _ _ hn, hy, hr, Bool.and_assoc]
    · have hr : ¬ r < (s.getV y).toNat + n.toNat := by omega
      have hrow : (s.mem.bytes s.i.toNat n.toNat)[r - (s.getV y).toNat]? = none :=
        List.getElem?_eq_none (by rw [Memory.bytes_length]; omega)
      simp [State.spriteBit, spritePixel, hrow, hr]
  · simp [State.spriteBit, spritePixel, hy]

theorem exec_drw_of_fits {x y n : Nibble} {s : State} (h : n.toNat = 0 ∨ s.i.toNat + n.toNat - 1 ≤ 0xFFF) :
    exec (.drw x y n) s = .next (s.afterDraw
      (drawSprite s.framebuffer (s.getV x).toNat (s.getV y).toNat (s.mem.bytes s.i.toNat n.toNat))) := by
  rcases execDrw_cases x y n s with ⟨hn, hout, -⟩ | ⟨-, e⟩
  · omega
  · exact e

theorem State.pixel_drawSprite (s : State) (x y n : Nibble) (r c : Nat) :
    (drawSprite s.framebuffer (s.getV x).toNat (s.getV y).toNat (s.mem.bytes s.i.toNat n.toNat)).1.pixel r c =
      (s.framebuffer.pixel r c ^^ s.spriteBit x y n r c) := by
  rw [drawSprite, pixel_drawRows, s.spriteBit_eq x y n]

theorem State.hit_drawSprite (s : State) (x y n : Nibble) :
    (drawSprite s.framebuffer (s.getV x).toNat (s.getV y).toNat (s.mem.bytes s.i.toNat n.toNat)).2 = true ↔
      ∃ r c, s.spriteBit x y n r c = true ∧ s.framebuffer.pixel r c = true := by
  simp only [drawSprite, hit_drawRows, s.spriteBit_eq x y n, Bool.false_eq_true, false_or]

/-- The sprite depends on memory, I and the two coordinates only. -/
theorem State.spriteBit_congr {s u : State} {x y : Nibble} (n : Nibble) (hmem : u.mem = s.mem) (hi : u.i = s.i)
    (hx : u.getV x = s.getV x) (hy : u.getV y = s.getV y) (r c : Nat) : u.spriteBit x y n r c = s.spriteBit x y n r c := by
  rw [State.spriteBit, State.spriteBit, hmem, hi, hx, hy]

end Sys2Proof.Machine

namespace Sys2Proof.Proofs

open Machine

/-- Settles O54: the blit's pixels and its collision, put into the framebuffer and VF. -/
theorem drawFlipsExactlyTheSprite : Obligations.DrawFlipsExactlyTheSprite := by
  intro x y n s h
  refine ⟨_, exec_drw_of_fits h, s.pixel_drawSprite x y n, fun hhit => ?_, fun hmiss => ?_, fun z hz => ?_, rfl⟩
  · rw [State.getV_afterDraw, if_pos rfl, (s.hit_drawSprite x y n).2 hhit]
    rfl
  · rw [State.getV_afterDraw, if_pos rfl, Bool.eq_false_iff.2 (mt (s.hit_drawSprite x y n).1 hmiss)]
    rfl
  · rw [State.getV_afterDraw, if_neg hz]

/-- Settles O55: the second draw flips the same pixels back, and meets lit exactly those that the first one lit. -/
theorem drawingTwiceRestores : Obligations.DrawingTwiceRestores := by
  intro x y n s t u h ht hfb hmem hi hx hy
  obtain ⟨t', ht', hpix, -, hmiss, -, hframe⟩ := drawFlipsExactlyTheSprite x y n s h
  obtain rfl : t' = t := Host.Outcome.next.inj (ht'.symm.trans ht)
  have hmem' : u.mem = s.mem := by rw [hmem, hframe]
  have hi' : u.i = s.i := by rw [hi, hframe]
  have hsprite := State.spriteBit_congr n hmem' hi' hx hy
  obtain ⟨w, hw, hpix', hhit', hmiss', -, -⟩ := drawFlipsExactlyTheSprite x y n u (by rwa [hi'])
  simp only [hsprite, hfb, hpix] at hpix' hhit' hmiss'
  refine ⟨w, hw, Framebuffer.ext_pixel fun r c _ _ => ?_, fun hoff => ⟨?_, ?_⟩⟩
  · rw [hpix', Bool.xor_assoc, Bool.xor_self, Bool.xor_false]
  · refine hmiss ?_
    rintro ⟨r, c, hbit, hlit⟩
    rw [hoff r c hbit] at hlit
    cases hlit
  · constructor
    · intro hvf
      by_contra hnone
      rw [hmiss' (by rintro ⟨r, c, hbit, -⟩; exact hnone ⟨r, c, hbit⟩)] at hvf
      exact absurd hvf (by decide)
    · rintro ⟨r, c, hbit⟩
      exact hhit' ⟨r, c, hbit, by rw [hoff r c hbit, hbit]; rfl⟩

end Sys2Proof.Proofs
end

section
/-! Loading, reset and the host's reads (70_reset_and_hazards R351 to R356, 60_exceptions R316 to R319). -/

namespace Sys2Proof.Machine

theorem Memory.unlisted_of_font {a : Nat} (h : a < 0x50) : Memory.unlisted a = Params.fontByte a := if_pos h

theorem Memory.unlisted_above_font {a : Nat} (h : 0x50 ≤ a) : Memory.unlisted a = 0#8 := if_neg (Nat.not_lt.2 h)

theorem Memory.read_ofProgram_inside (a : Nat) {bytes : List Byte} {k : Nat} (h : k < bytes.length) :
    Memory.read (Memory.ofProgram a bytes) (a + k) = bytes[k] :=
  (Memory.read_ofProgram ..).trans (blockByte_inside a _ h)

theorem Memory.read_ofProgram_outside {a b : Nat} {bytes : List Byte} (h : b < a ∨ a + bytes.length ≤ b) :
    Memory.read (Memory.ofProgram a bytes) b = Memory.unlisted b :=
  (Memory.read_ofProgram ..).trans (blockByte_outside _ h)

theorem State.perform_first_load {s : State} (bytes : List Byte) (hs : s.session = .notLoaded) :
    s.perform (.load bytes) = .next (s.load bytes) := by
  rcases s.hostLoad_cases bytes with ⟨-, e⟩ | ⟨hn, -⟩
  · exact e
  · exact absurd hs hn

theorem State.reset_getV (x : Nibble) : State.reset.getV x = 0#8 := Vector.getElem_replicate ..

end Sys2Proof.Machine

namespace Sys2Proof.Proofs

open Machine

/-- Settles O56: outside the program the Loader's memory reads as an unlisted address does, which is the font and zeros. -/
theorem loadInstallsTheProgram : Obligations.LoadInstallsTheProgram := by
  intro bytes s hs
  rw [State.perform_first_load bytes hs]
  rcases State.load_cases bytes s with ⟨hbig, e⟩ | ⟨hfit, e⟩ <;> rw [e]
  · exact ⟨fun h => by omega, fun _ => rfl⟩
  · refine ⟨fun _ => ⟨_, rfl, fun k hk => ?program, fun a ha => ?font, fun a ha => ?zeros, rfl, rfl, rfl⟩, fun h => by omega⟩
    case program => exact Memory.read_ofProgram_inside 0x200 hk
    case font => exact (Memory.read_ofProgram_outside (by omega)).trans (Memory.unlisted_of_font ha)
    case zeros => exact (Memory.read_ofProgram_outside (by omega)).trans (Memory.unlisted_above_font (by omega))

/-- Settles O57: the reset memory lists no byte. -/
theorem resetHasTheGivenValues : Obligations.ResetHasTheGivenValues :=
  ⟨rfl, rfl, rfl, rfl, rfl, fun _ ha => Memory.unlisted_of_font ha, fun _ ha _ => Memory.unlisted_above_font ha⟩

/-- Settles O58. -/
theorem resetIsACleanLaunch : Obligations.ResetIsACleanLaunch where
  loaded := ⟨_, State.reset_eq_load⟩
  fits := Nat.zero_le _
  v := State.reset_getV
  i := rfl
  stack j := Vector.getElem_replicate j.isLt
  delayTimer := rfl
  soundTimer := rfl
  framebuffer := Framebuffer.pixel_clear
  keyboard := rfl
  awaitingKey := rfl
  noError := rfl
  lastTick := rfl

/-- Settles O59: each read hands back its value; the level is on while the counter is positive. -/
theorem hostReadsChangeNothing : Obligations.HostReadsChangeNothing := by
  intro s
  have hlevel : s.beep = decide (0 < s.soundTimer.toNat) := Bool.eq_iff_iff.2 (s.beep_iff.trans decide_eq_true_iff.symm)
  refine ⟨rfl, ?_, rfl⟩
  rw [← hlevel]
  rfl

end Sys2Proof.Proofs
end
